-- ==== Sys2Proof/Word.lean ====
section
/-! DEFINITION. The word types of the block whose widths its source fixes (spec/20_memory.md R55, spec/00_scope.md R9). The two
types whose widths are parameters stand in Config.lean. Every value is unsigned (R11). -/

namespace Sys2Proof

/-- One byte of a frame or of an operation packet (R70). -/
abbrev Byte := BitVec 8

/-- The target channel index of a frame, and the index of a channel unit: 0 to 255 (R9 `TARGET_W`, R53). -/
abbrev Channel := BitVec 8

/-- The 16-bit value field of a frame (R9 `VALUE_W`). -/
abbrev Value := BitVec 16

/-- The humidity threshold (R9 `THRESHOLD_W`, R28). -/
abbrev Threshold := BitVec 16

/-- A frame packed into a word, the operand of `DECODE` (R71). -/
abbrev CommandWord := BitVec 32

/-- `frequency` and `pulse_length` (R9 `FREQ_W`, `PL_W`). -/
abbrev Span := BitVec 32

/-- The level of the pump output: LOW is 0, HIGH is 1 (R31, D14). -/
inductive Level where
  | low
  | high
  deriving DecidableEq, Repr

end Sys2Proof
end

