-- ==== Sys2Proof/Config.lean ====
section
/-! DEFINITION. The implementation parameters of spec/00_scope.md R9.
The widths that R9 marks as fixed by the source are the types of Word.lean; the two that it marks as decisions are parameters here,
and every type, byte layout and operation that depends on one is written in terms of it. What R9 marks OPEN is an opaque constant here: nothing can evaluate it, so every claim
holds for every value of it. -/

namespace Sys2Proof

/-- `TS_WIDTH`: the width of a timestamp and of the clock counter (R9, R211). Its value is the decision D8 of
spec/92_eei_decisions.md, kept as a parameter; unsafe for a counter of another width (log 9). -/
abbrev Config.tsWidth : Nat := 32

/-- `MOIST_W`: the width of a moisture reading (R9, R172). Its value is the decision D10, kept as a parameter; unsafe for a reader
of another width or a signed one (log 10). -/
abbrev Config.moistWidth : Nat := 16

/-- A reading of the clock, `TS_WIDTH` bits (R211). -/
abbrev Timestamp := BitVec Config.tsWidth

/-- A moisture reading, `MOIST_W` bits (R172). -/
abbrev Moisture := BitVec Config.moistWidth

/-- `THRESHOLD_RESET`: the threshold after construction (R9, R230). Its literal is unaudited in the source (D28; log 17). -/
def Config.thresholdReset : Threshold := 1000

/-- `ENABLED_RESET`: the enabled flag after construction (R9, R230). -/
def Config.enabledReset : Bool := true

/-- `PUMP_ON_LEVEL`: the active-low drive convention (R9, R31). -/
def Config.pumpOnLevel : Level := .low

/-- `PUMP_OFF_LEVEL` (R9, R31). -/
def Config.pumpOffLevel : Level := .high

/-- `PT_RESET_PULSE_LENGTH`: OPEN (R9, R25, D11, U1). DESIGN CHOICE: no number is chosen; safe (log 7). -/
opaque Config.ptResetPulseLength : Span

/-- `PT_RESET_FREQUENCY`: OPEN (R9, R24, D12, U2). DESIGN CHOICE: no number is chosen; safe (log 7). -/
opaque Config.ptResetFrequency : Span

/-- How many channel units there are beyond the first: OPEN, 0 to 255 (R9 `NUM_CHANNELS`, D15). Safe (log 6). -/
opaque Config.extraChannels : Fin 256

/-- `NUM_CHANNELS`: from 1 to 256 (R9, R39, D15). -/
def Config.numChannels : Nat := Config.extraChannels.val + 1

/-- `now0`, the clock reading at the construction of each channel's controller: a draw (R230, D13, U3). Safe (log 8). -/
opaque Config.now0 : Channel → Timestamp

/-- `now0` of the standalone timer (R231): a draw of its own. Safe (log 8). -/
opaque Config.timerNow0 : Timestamp

end Sys2Proof
end

