-- ==== Sys2Proof/Syntax.lean ====
section
/-! DEFINITION. The syntax: the request and response enumerations, the instructions (one constructor per row of
spec/opcode_table.json) and the encoded form in which the host issues one. -/

namespace Sys2Proof

/-- The closed enumeration of command codes with its sentinel (spec/30_encoding.md R74, R77). -/
inductive Request where
  | ping | getMoisture | setThreshold | getPulseLength | setPulseLength | getIsRunning
  | getThreshold | enable | disable | getFrequency | setFrequency | unknown
  deriving DecidableEq, Repr

/-- The closed enumeration of reply codes with its sentinel (R75). -/
inductive Response where
  | pong | moistureResponse | setThresholdResponse | pulseLengthResponse | setPulseLengthResponse | isRunning
  | thresholdResponse | enableResponse | disableResponse | frequencyResponse | setFrequencyResponse | invalidRequest
  deriving DecidableEq, Repr

/-- The decode result (spec/40_codec.md R100). It keeps no raw code byte (R76). -/
structure RequestBundle where
  request : Request
  target  : Channel
  value   : Value
  deriving DecidableEq, Repr

/-- The one encoded format, exactly 4 bytes (R70). -/
structure Frame where
  b0 : Byte
  b1 : Byte
  b2 : Byte
  b3 : Byte
  deriving DecidableEq, Repr

/-- The instructions. A controller operation names its channel unit `ch` (10_state.md R39). The readings `now` and `m` that the
host's clock and sensor supply are operands (R80, R212, R172; log 2). -/
inductive Instr where
  -- controller operations (spec/42_controller.md)
  | ctlStep (ch : Channel) (now : Timestamp) (m : Moisture)
  | ctlEnable (ch : Channel)
  | ctlDisable (ch : Channel)
  | ctlGetMoisture (ch : Channel) (m : Moisture)
  | ctlGetThreshold (ch : Channel)
  | ctlSetThreshold (ch : Channel) (arg : Threshold)
  | ctlGetPulseLength (ch : Channel)
  | ctlSetPulseLength (ch : Channel) (arg : Span)
  | ctlGetFrequency (ch : Channel)
  | ctlSetFrequency (ch : Channel) (arg : Span)
  | ctlIsRunning (ch : Channel) (now : Timestamp)
  -- operations of the standalone timer (spec/41_pulse_timer.md)
  | ptActivate
  | ptDeactivate
  | ptIsFiring (now : Timestamp)
  | ptGetPulseLength
  | ptSetPulseLength (arg : Span)
  | ptGetFrequency
  | ptSetFrequency (arg : Span)
  -- codec operations (spec/40_codec.md)
  | codecDecode (word : CommandWord)
  | codecEncode (r : Response) (t : Channel) (v : Value)
  | codecEncode0 (r : Response)
  -- request words, R104 to R115: DECODE of the word with that code byte
  | reqPing (t : Channel) (v : Value)
  | reqGetMoisture (t : Channel) (v : Value)
  | reqSetThreshold (t : Channel) (v : Value)
  | reqGetPulseLength (t : Channel) (v : Value)
  | reqSetPulseLength (t : Channel) (v : Value)
  | reqGetIsRunning (t : Channel) (v : Value)
  | reqGetThreshold (t : Channel) (v : Value)
  | reqEnable (t : Channel) (v : Value)
  | reqDisable (t : Channel) (v : Value)
  | reqGetFrequency (t : Channel) (v : Value)
  | reqSetFrequency (t : Channel) (v : Value)
  | reqUnknown (code : Byte) (t : Channel) (v : Value)
  -- response frames, R116 to R127: ENCODE of that response
  | rspPong (t : Channel) (v : Value)
  | rspMoistureResponse (t : Channel) (v : Value)
  | rspSetThresholdResponse (t : Channel) (v : Value)
  | rspPulseLengthResponse (t : Channel) (v : Value)
  | rspSetPulseLengthResponse (t : Channel) (v : Value)
  | rspIsRunning (t : Channel) (v : Value)
  | rspThresholdResponse (t : Channel) (v : Value)
  | rspEnableResponse (t : Channel) (v : Value)
  | rspDisableResponse (t : Channel) (v : Value)
  | rspFrequencyResponse (t : Channel) (v : Value)
  | rspSetFrequencyResponse (t : Channel) (v : Value)
  | rspInvalidRequest (t : Channel) (v : Value)
  deriving DecidableEq, Repr

/-- Where the host presents an encoded instruction (10_state.md R40; log 4). The three encodings of the opcode table reuse the
same code bytes, so the port, and not the bytes, says which one is read. -/
inductive Port where
  /-- An operation packet: the op_sel byte and its operands (R80). -/
  | opSel
  /-- The codec's decode input: a request frame (R70). -/
  | command
  /-- The codec's encode input: a response code, a target and a value (R40, R78). -/
  | response
  deriving DecidableEq, Repr

/-- One operation as the host issues it: the channel unit addressed, the port and the bytes. The channel matters to the
`CTL.*` packets alone. -/
structure Issue where
  channel : Channel
  port    : Port
  packet  : List Byte
  deriving DecidableEq, Repr

/-- The channel unit an instruction operates on, if it is a controller operation (10_state.md R39). -/
def Instr.channel? : Instr → Option Channel
  | .ctlStep ch _ _ | .ctlEnable ch | .ctlDisable ch | .ctlGetMoisture ch _ | .ctlGetThreshold ch
  | .ctlSetThreshold ch _ | .ctlGetPulseLength ch | .ctlSetPulseLength ch _ | .ctlGetFrequency ch
  | .ctlSetFrequency ch _ | .ctlIsRunning ch _ => some ch
  | .ptActivate | .ptDeactivate | .ptIsFiring _ | .ptGetPulseLength | .ptSetPulseLength _ | .ptGetFrequency
  | .ptSetFrequency _ => none
  | .codecDecode _ | .codecEncode _ _ _ | .codecEncode0 _ => none
  | .reqPing _ _ | .reqGetMoisture _ _ | .reqSetThreshold _ _ | .reqGetPulseLength _ _ | .reqSetPulseLength _ _
  | .reqGetIsRunning _ _ | .reqGetThreshold _ _ | .reqEnable _ _ | .reqDisable _ _ | .reqGetFrequency _ _
  | .reqSetFrequency _ _ | .reqUnknown _ _ _ => none
  | .rspPong _ _ | .rspMoistureResponse _ _ | .rspSetThresholdResponse _ _ | .rspPulseLengthResponse _ _
  | .rspSetPulseLengthResponse _ _ | .rspIsRunning _ _ | .rspThresholdResponse _ _ | .rspEnableResponse _ _
  | .rspDisableResponse _ _ | .rspFrequencyResponse _ _ | .rspSetFrequencyResponse _ _
  | .rspInvalidRequest _ _ => none

/-- The instructions the codec executes: everything that is neither a controller nor a timer operation (R22). -/
def Instr.isCodec : Instr → Bool
  | .ctlStep _ _ _ | .ctlEnable _ | .ctlDisable _ | .ctlGetMoisture _ _ | .ctlGetThreshold _
  | .ctlSetThreshold _ _ | .ctlGetPulseLength _ | .ctlSetPulseLength _ _ | .ctlGetFrequency _
  | .ctlSetFrequency _ _ | .ctlIsRunning _ _ => false
  | .ptActivate | .ptDeactivate | .ptIsFiring _ | .ptGetPulseLength | .ptSetPulseLength _ | .ptGetFrequency
  | .ptSetFrequency _ => false
  | .codecDecode _ | .codecEncode _ _ _ | .codecEncode0 _ => true
  | .reqPing _ _ | .reqGetMoisture _ _ | .reqSetThreshold _ _ | .reqGetPulseLength _ _ | .reqSetPulseLength _ _
  | .reqGetIsRunning _ _ | .reqGetThreshold _ _ | .reqEnable _ _ | .reqDisable _ _ | .reqGetFrequency _ _
  | .reqSetFrequency _ _ | .reqUnknown _ _ _ => true
  | .rspPong _ _ | .rspMoistureResponse _ _ | .rspSetThresholdResponse _ _ | .rspPulseLengthResponse _ _
  | .rspSetPulseLengthResponse _ _ | .rspIsRunning _ _ | .rspThresholdResponse _ _ | .rspEnableResponse _ _
  | .rspDisableResponse _ _ | .rspFrequencyResponse _ _ | .rspSetFrequencyResponse _ _
  | .rspInvalidRequest _ _ => true

end Sys2Proof
end

