-- ==== Sys2Proof/Decode.lean ====
section
/-! DEFINITION. The encoding tables, the decoder (total on any bytes, refusing by name) and the encoder.
Frames and their codes follow spec/30_encoding.md R70 to R79, operation packets R80 and R81. An operation packet is the op_sel
byte and then the operands in the order spec/95_test_vectors.md section 3 writes them, each little-endian in whole bytes (log 3). -/

namespace Sys2Proof

/-! ### Byte order (20_memory.md R50, R51) -/

/-- The low and the high byte of a 16-bit value (R70). -/
def bytes16 (v : BitVec 16) : List Byte := [v.extractLsb' 0 8, v.extractLsb' 8 8]

/-- How many bytes hold `w` bits. -/
def byteCount (w : Nat) : Nat := (w + 7) / 8

/-- The bytes of a value of any width, least significant first (R51; log 3). -/
def bytesOf {w : Nat} (v : BitVec w) : List Byte := (List.range (byteCount w)).map fun k => v.extractLsb' (8 * k) 8

/-- The number some bytes hold, least significant first. -/
def natOfBytes : List Byte → Nat
  | [] => 0
  | b :: bs => b.toNat + 256 * natOfBytes bs

/-- The value of width `w` that some bytes hold: they are as many as the width needs, and the bits above the width are 0. -/
def readBytes (w : Nat) (bs : List Byte) : Option (BitVec w) :=
  if bs.length = byteCount w ∧ natOfBytes bs < 2 ^ w then some (BitVec.ofNat w (natOfBytes bs)) else none

/-- A 16-bit value from its low and its high byte (R72). -/
def join16 (lo hi : Byte) : BitVec 16 := lo.setWidth 16 ||| (hi.setWidth 16 <<< 8)

/-- `pack` on four bytes (R71). -/
def join32 (b0 b1 b2 b3 : Byte) : BitVec 32 :=
  b0.setWidth 32 ||| (b1.setWidth 32 <<< 8) ||| (b2.setWidth 32 <<< 16) ||| (b3.setWidth 32 <<< 24)

/-- `pack` (R71). -/
def Frame.pack (f : Frame) : CommandWord := join32 f.b0 f.b1 f.b2 f.b3

/-- `unpack` (R71). -/
def Frame.unpack (w : CommandWord) : Frame :=
  ⟨w.extractLsb' 0 8, w.extractLsb' 8 8, w.extractLsb' 16 8, w.extractLsb' 24 8⟩

/-- The bytes of a frame, byte 0 first. -/
def Frame.bytes (f : Frame) : List Byte := [f.b0, f.b1, f.b2, f.b3]

/-! ### The code maps (R74, R75) -/

/-- `RequestOfCode`: a closed match with a fallback arm, total on all 256 bytes (R74, R77). -/
def Request.ofCode (code : Byte) : Request :=
  match code.toNat with
  | 0x00 => .ping
  | 0x01 => .getMoisture
  | 0x02 => .setThreshold
  | 0x03 => .getPulseLength
  | 0x04 => .setPulseLength
  | 0x05 => .getIsRunning
  | 0x06 => .getThreshold
  | 0x07 => .enable
  | 0x08 => .disable
  | 0x09 => .getFrequency
  | 0x0A => .setFrequency
  | _ => .unknown

/-- The canonical code of a request: its number where a port or a trace needs one (R77, D5). -/
def Request.code : Request → Byte
  | .ping => 0x00
  | .getMoisture => 0x01
  | .setThreshold => 0x02
  | .getPulseLength => 0x03
  | .setPulseLength => 0x04
  | .getIsRunning => 0x05
  | .getThreshold => 0x06
  | .enable => 0x07
  | .disable => 0x08
  | .getFrequency => 0x09
  | .setFrequency => 0x0A
  | .unknown => 0xFF

/-- `CodeOfResponse` (R75). -/
def Response.code : Response → Byte
  | .pong => 0x00
  | .moistureResponse => 0x01
  | .setThresholdResponse => 0x02
  | .pulseLengthResponse => 0x03
  | .setPulseLengthResponse => 0x04
  | .isRunning => 0x05
  | .thresholdResponse => 0x06
  | .enableResponse => 0x07
  | .disableResponse => 0x08
  | .frequencyResponse => 0x09
  | .setFrequencyResponse => 0x0A
  | .invalidRequest => 0xFF

/-- The response a numeric encode operand stands for; every code outside the 12 is refused (R78, D6). -/
def Response.ofCode (code : Byte) : Option Response :=
  match code.toNat with
  | 0x00 => some .pong
  | 0x01 => some .moistureResponse
  | 0x02 => some .setThresholdResponse
  | 0x03 => some .pulseLengthResponse
  | 0x04 => some .setPulseLengthResponse
  | 0x05 => some .isRunning
  | 0x06 => some .thresholdResponse
  | 0x07 => some .enableResponse
  | 0x08 => some .disableResponse
  | 0x09 => some .frequencyResponse
  | 0x0A => some .setFrequencyResponse
  | 0xFF => some .invalidRequest
  | _ => none

/-- The request at the same position: the one a response mirrors (R75). -/
def Response.mirrors : Response → Request
  | .pong => .ping
  | .moistureResponse => .getMoisture
  | .setThresholdResponse => .setThreshold
  | .pulseLengthResponse => .getPulseLength
  | .setPulseLengthResponse => .setPulseLength
  | .isRunning => .getIsRunning
  | .thresholdResponse => .getThreshold
  | .enableResponse => .enable
  | .disableResponse => .disable
  | .frequencyResponse => .getFrequency
  | .setFrequencyResponse => .setFrequency
  | .invalidRequest => .unknown

/-! ### The decoder -/

/-- Why an issued packet is refused at the boundary (log 15). -/
inductive DecodeError where
  /-- The op_sel byte names no operation (R80, U11). -/
  | opSelUnassigned (sel : Byte)
  /-- The numeric encode operand names no response (R78, U10). -/
  | responseCodeUnassigned (code : Byte)
  /-- The packet is shorter or longer than the whole operation or frame (20_memory.md R54, D24). -/
  | packetNotWhole (port : Port)
  deriving DecidableEq, Repr

/-- An operation packet with no operand. -/
def operands0 (i : Instr) : List Byte → Except DecodeError Instr
  | [] => .ok i
  | _ => .error (.packetNotWhole .opSel)

/-- An operation packet with one operand. -/
def operands1 {w : Nat} (mk : BitVec w → Instr) (bs : List Byte) : Except DecodeError Instr :=
  match readBytes w bs with
  | some a => .ok (mk a)
  | none => .error (.packetNotWhole .opSel)

/-- An operation packet with two operands. -/
def operands2 {v w : Nat} (mk : BitVec v → BitVec w → Instr) (bs : List Byte) : Except DecodeError Instr :=
  match readBytes v (bs.take (byteCount v)), readBytes w (bs.drop (byteCount v)) with
  | some a, some b => .ok (mk a b)
  | _, _ => .error (.packetNotWhole .opSel)

/-- The operands of `ENCODE`: a response code, a target and a value. -/
def operandsEncode : List Byte → Except DecodeError Instr
  | [code, t, lo, hi] =>
    match Response.ofCode code with
    | some r => .ok (.codecEncode r t (join16 lo hi))
    | none => .error (.responseCodeUnassigned code)
  | _ => .error (.packetNotWhole .opSel)

/-- The operand of `ENCODE0`: a response code. -/
def operandsEncode0 : List Byte → Except DecodeError Instr
  | [code] =>
    match Response.ofCode code with
    | some r => .ok (.codecEncode0 r)
    | none => .error (.responseCodeUnassigned code)
  | _ => .error (.packetNotWhole .opSel)

/-- The op_sel table of R80; every other value is refused. -/
def decodeOpSel (ch : Channel) (sel : Byte) (rest : List Byte) : Except DecodeError Instr :=
  match sel.toNat with
  | 0x00 => operands2 (.ctlStep ch) rest
  | 0x01 => operands0 (.ctlEnable ch) rest
  | 0x02 => operands0 (.ctlDisable ch) rest
  | 0x03 => operands1 (.ctlGetMoisture ch) rest
  | 0x04 => operands0 (.ctlGetThreshold ch) rest
  | 0x05 => operands1 (.ctlSetThreshold ch) rest
  | 0x06 => operands0 (.ctlGetPulseLength ch) rest
  | 0x07 => operands1 (.ctlSetPulseLength ch) rest
  | 0x08 => operands0 (.ctlGetFrequency ch) rest
  | 0x09 => operands1 (.ctlSetFrequency ch) rest
  | 0x0A => operands1 (.ctlIsRunning ch) rest
  | 0x10 => operands0 .ptActivate rest
  | 0x11 => operands0 .ptDeactivate rest
  | 0x12 => operands1 .ptIsFiring rest
  | 0x13 => operands0 .ptGetPulseLength rest
  | 0x14 => operands1 .ptSetPulseLength rest
  | 0x15 => operands0 .ptGetFrequency rest
  | 0x16 => operands1 .ptSetFrequency rest
  | 0x20 => operands1 .codecDecode rest
  | 0x21 => operandsEncode rest
  | 0x22 => operandsEncode0 rest
  | _ => .error (.opSelUnassigned sel)

/-- The request rows, R104 to R115: every code byte has a row (R84). -/
def requestRow (code : Byte) (t : Channel) (v : Value) : Instr :=
  match code.toNat with
  | 0x00 => .reqPing t v
  | 0x01 => .reqGetMoisture t v
  | 0x02 => .reqSetThreshold t v
  | 0x03 => .reqGetPulseLength t v
  | 0x04 => .reqSetPulseLength t v
  | 0x05 => .reqGetIsRunning t v
  | 0x06 => .reqGetThreshold t v
  | 0x07 => .reqEnable t v
  | 0x08 => .reqDisable t v
  | 0x09 => .reqGetFrequency t v
  | 0x0A => .reqSetFrequency t v
  | _ => .reqUnknown code t v

/-- The response rows, R116 to R127. -/
def responseRow (r : Response) (t : Channel) (v : Value) : Instr :=
  match r with
  | .pong => .rspPong t v
  | .moistureResponse => .rspMoistureResponse t v
  | .setThresholdResponse => .rspSetThresholdResponse t v
  | .pulseLengthResponse => .rspPulseLengthResponse t v
  | .setPulseLengthResponse => .rspSetPulseLengthResponse t v
  | .isRunning => .rspIsRunning t v
  | .thresholdResponse => .rspThresholdResponse t v
  | .enableResponse => .rspEnableResponse t v
  | .disableResponse => .rspDisableResponse t v
  | .frequencyResponse => .rspFrequencyResponse t v
  | .setFrequencyResponse => .rspSetFrequencyResponse t v
  | .invalidRequest => .rspInvalidRequest t v

/-- A frame at the decode input (R70, R72). -/
def decodeCommand : List Byte → Except DecodeError Instr
  | [code, t, lo, hi] => .ok (requestRow code t (join16 lo hi))
  | _ => .error (.packetNotWhole .command)

/-- A code, a target and a value at the encode input (R40, R78). -/
def decodeResponse : List Byte → Except DecodeError Instr
  | [code, t, lo, hi] =>
    match Response.ofCode code with
    | some r => .ok (responseRow r t (join16 lo hi))
    | none => .error (.responseCodeUnassigned code)
  | _ => .error (.packetNotWhole .response)

/-- The instruction an issued packet stands for, or why it is refused. -/
def decode (q : Issue) : Except DecodeError Instr :=
  match q.port with
  | .opSel =>
    match q.packet with
    | [] => .error (.packetNotWhole .opSel)
    | sel :: rest => decodeOpSel q.channel sel rest
  | .command => decodeCommand q.packet
  | .response => decodeResponse q.packet

/-! ### The encoder -/

/-- A packet at the operation port. -/
def opPacket (ch : Channel) (sel : Byte) (operands : List Byte) : Issue := ⟨ch, .opSel, sel :: operands⟩

/-- A frame at the decode input. -/
def requestFrame (code : Byte) (t : Channel) (v : Value) : Issue := ⟨0, .command, code :: t :: bytes16 v⟩

/-- A code, a target and a value at the encode input. -/
def responseFrame (r : Response) (t : Channel) (v : Value) : Issue := ⟨0, .response, r.code :: t :: bytes16 v⟩

/-- The packet of an instruction. Where no channel unit is addressed, the channel is 0. -/
def encode : Instr → Issue
  | .ctlStep ch now m => opPacket ch 0x00 (bytesOf now ++ bytesOf m)
  | .ctlEnable ch => opPacket ch 0x01 []
  | .ctlDisable ch => opPacket ch 0x02 []
  | .ctlGetMoisture ch m => opPacket ch 0x03 (bytesOf m)
  | .ctlGetThreshold ch => opPacket ch 0x04 []
  | .ctlSetThreshold ch arg => opPacket ch 0x05 (bytesOf arg)
  | .ctlGetPulseLength ch => opPacket ch 0x06 []
  | .ctlSetPulseLength ch arg => opPacket ch 0x07 (bytesOf arg)
  | .ctlGetFrequency ch => opPacket ch 0x08 []
  | .ctlSetFrequency ch arg => opPacket ch 0x09 (bytesOf arg)
  | .ctlIsRunning ch now => opPacket ch 0x0A (bytesOf now)
  | .ptActivate => opPacket 0 0x10 []
  | .ptDeactivate => opPacket 0 0x11 []
  | .ptIsFiring now => opPacket 0 0x12 (bytesOf now)
  | .ptGetPulseLength => opPacket 0 0x13 []
  | .ptSetPulseLength arg => opPacket 0 0x14 (bytesOf arg)
  | .ptGetFrequency => opPacket 0 0x15 []
  | .ptSetFrequency arg => opPacket 0 0x16 (bytesOf arg)
  | .codecDecode word => opPacket 0 0x20 (bytesOf word)
  | .codecEncode r t v => opPacket 0 0x21 (r.code :: t :: bytes16 v)
  | .codecEncode0 r => opPacket 0 0x22 [r.code]
  | .reqPing t v => requestFrame 0x00 t v
  | .reqGetMoisture t v => requestFrame 0x01 t v
  | .reqSetThreshold t v => requestFrame 0x02 t v
  | .reqGetPulseLength t v => requestFrame 0x03 t v
  | .reqSetPulseLength t v => requestFrame 0x04 t v
  | .reqGetIsRunning t v => requestFrame 0x05 t v
  | .reqGetThreshold t v => requestFrame 0x06 t v
  | .reqEnable t v => requestFrame 0x07 t v
  | .reqDisable t v => requestFrame 0x08 t v
  | .reqGetFrequency t v => requestFrame 0x09 t v
  | .reqSetFrequency t v => requestFrame 0x0A t v
  | .reqUnknown code t v => requestFrame code t v
  | .rspPong t v => responseFrame .pong t v
  | .rspMoistureResponse t v => responseFrame .moistureResponse t v
  | .rspSetThresholdResponse t v => responseFrame .setThresholdResponse t v
  | .rspPulseLengthResponse t v => responseFrame .pulseLengthResponse t v
  | .rspSetPulseLengthResponse t v => responseFrame .setPulseLengthResponse t v
  | .rspIsRunning t v => responseFrame .isRunning t v
  | .rspThresholdResponse t v => responseFrame .thresholdResponse t v
  | .rspEnableResponse t v => responseFrame .enableResponse t v
  | .rspDisableResponse t v => responseFrame .disableResponse t v
  | .rspFrequencyResponse t v => responseFrame .frequencyResponse t v
  | .rspSetFrequencyResponse t v => responseFrame .setFrequencyResponse t v
  | .rspInvalidRequest t v => responseFrame .invalidRequest t v

/-! ### Words numbered as the opcode table numbers them -/

/-- How many bytes the packet of an op_sel value has, the op_sel byte among them; none where R80 lists no operation. -/
def packetLength (sel : Nat) : Option Nat :=
  match sel with
  | 0x00 => some (1 + byteCount Config.tsWidth + byteCount Config.moistWidth)
  | 0x01 | 0x02 | 0x04 | 0x06 | 0x08 => some 1
  | 0x03 => some (1 + byteCount Config.moistWidth)
  | 0x05 => some 3
  | 0x07 | 0x09 => some 5
  | 0x0A => some (1 + byteCount Config.tsWidth)
  | 0x10 | 0x11 | 0x13 | 0x15 => some 1
  | 0x12 => some (1 + byteCount Config.tsWidth)
  | 0x14 | 0x16 => some 5
  | 0x20 | 0x21 => some 5
  | 0x22 => some 2
  | _ => none

/-- The first `n` bytes of a number whose bit 0 is the least significant bit of the first byte. -/
def bytesOfNat (n w : Nat) : List Byte := (List.range n).map fun k => BitVec.ofNat 8 (w >>> (8 * k))

/-- A frame word of the table, whose direction the word does not say: a code byte that names a request is read at the decode
input, the code 0xFF, which no request frame uses on purpose (40_codec.md R103), at the encode input, and any other code at the
decode input (log 4). -/
def tableFrame (w : Nat) : Issue :=
  if w % 256 = 0xFF then ⟨0, .response, bytesOfNat 4 w⟩ else ⟨0, .command, bytesOfNat 4 w⟩

/-- The packet of a word of the opcode table. DESIGN CHOICE (log 4): a word of 32 bits is a frame, and a word of another length is an
operation packet for channel 0. The packet holds every byte of the word; where the operation is longer, its operand bytes beyond
the word are 0, and where the word is longer, the packet is not whole and the decoder refuses it. A first byte that R80 does not list
is refused as an op_sel value. -/
def tableIssue (nbits w : Nat) : Issue :=
  let v := w % 2 ^ nbits
  if nbits = 32 then tableFrame v
  else ⟨0, .opSel, bytesOfNat (max (byteCount nbits) ((packetLength (v % 256)).getD 1)) v⟩

/-- The instruction the decoder reads from a word of the opcode table. -/
def decodeTableWord (nbits w : Nat) : Option Instr :=
  match decode (tableIssue nbits w) with
  | .ok i => some i
  | .error _ => none

end Sys2Proof
end

