-- ==== Sys2Proof/Machine/State.lean ====
section
/-! DEFINITION. The state of the block (spec/10_state.md), the outcomes a step can name, and the state after reset
(spec/70_reset_and_hazards.md R230, R231). -/

namespace Sys2Proof.Machine

/-- The PulseTimer registers (R23 to R26), for a clock of `ts` bits (D8; log 9). -/
structure PulseTimerOf (ts : Nat) where
  /-- Active when true, Idle when false (R23). -/
  running : Bool
  /-- The cycle period (R24). -/
  frequency : Span
  /-- The on-duration within a cycle (R25). -/
  pulseLength : Span
  /-- The cycle anchor (R26). -/
  lastCycleStart : BitVec ts
  deriving DecidableEq, Repr

/-- The PulseTimer of this machine: its clock has `TS_WIDTH` bits. -/
abbrev PulseTimer := PulseTimerOf Config.tsWidth

/-- The ActuatorController registers of one channel (R28 to R31), for a clock of `ts` bits. -/
structure ControllerOf (ts : Nat) where
  humidityThreshold : Threshold
  enabled : Bool
  /-- The exclusively owned timer (R30). -/
  pulse : PulseTimerOf ts
  /-- The level last driven onto the pump output (R31). -/
  pumpOut : Level
  deriving DecidableEq, Repr

/-- The controller of this machine: its clock has `TS_WIDTH` bits. -/
abbrev Controller := ControllerOf Config.tsWidth

/-- Whose reading of the clock it is (60_exceptions.md R212). -/
inductive Reader where
  | channel (ch : Channel)
  | timer
  deriving DecidableEq, Repr

/-- An input or output event (20_memory.md R60): one sensor read (42_controller.md R172), one clock reading (R212), one write of
the pump output (10_state.md R31). -/
inductive Event where
  | sensorRead (ch : Channel) (reading : Moisture)
  | clockRead (reader : Reader) (now : Timestamp)
  | pumpWrite (ch : Channel) (level : Level)
  deriving DecidableEq, Repr

/-- The result of one operation, in the widths of 20_memory.md R55. -/
inductive Result where
  | none
  | bool (b : Bool)
  | half (v : BitVec 16)
  | word (v : BitVec 32)
  | moisture (m : Moisture)
  | bundle (b : RequestBundle)
  | frame (f : Frame)
  deriving DecidableEq, Repr

/-- What an operation does to the unit it runs on: the unit's next state, its events in order, and its result. -/
structure Reply (σ : Type) where
  unit : σ
  events : List Event
  result : Result
  deriving DecidableEq, Repr

/-- The state: the channel units (R39) and the standalone timer (92_eei_decisions.md D30) are the block's; `trace` is its output
trace with the input events (R31, R60). `pending` and `results` are the host interface: the operations issued and not yet
executed, oldest first (log 1), and the results so far, oldest first (D20; log 14). -/
structure State where
  channels : List Controller
  timer : PulseTimer
  trace : List Event
  results : List Result
  pending : List Issue
  deriving DecidableEq, Repr

/-- No operation has a fault outcome (60_exceptions.md R200, R203), so this type has no constructor and nothing raises one.
Safe (log 15). -/
inductive Fault
  deriving DecidableEq, Repr

/-- What the model gives no meaning to; all at the boundary, none for an operand within its type (R200). -/
inductive Refusal where
  /-- Raised by an arm of `exec` whose instruction has no meaning yet: no arm does. Safe. -/
  | notModelled (mnemonic : String)
  /-- Raised by a `CTL.*` meaning for an index of `NUM_CHANNELS` or more: the block never receives one (U12, D15; log 5).
  Safe. -/
  | noSuchChannel (ch : Channel)
  /-- Raised by `step` for an op_sel byte R80 does not list (U11; log 15). Safe. -/
  | opSelUnassigned (sel : Byte)
  /-- Raised by `step` for a numeric encode operand 0x0B to 0xFE (R78, U10; log 15). Safe. -/
  | responseCodeUnassigned (code : Byte)
  /-- Raised by `step` for a packet that is not one whole operation or frame (20_memory.md R54, D24; log 15). Safe. -/
  | packetNotWhole (port : Port)
  deriving DecidableEq, Repr

/-- A constructed PulseTimer (R231). -/
def PulseTimerOf.reset {ts : Nat} (now0 : BitVec ts) : PulseTimerOf ts :=
  { running := false
    frequency := Config.ptResetFrequency
    pulseLength := Config.ptResetPulseLength
    lastCycleStart := now0 }

/-- A constructed controller (R230). -/
def ControllerOf.reset {ts : Nat} (now0 : BitVec ts) : ControllerOf ts :=
  { humidityThreshold := Config.thresholdReset
    enabled := Config.enabledReset
    pulse := PulseTimerOf.reset now0
    pumpOut := Config.pumpOffLevel }

/-- The events of the construction of one channel: its clock reading and its one pump write (R230, R212). Their order is a
DESIGN CHOICE (log 13). -/
def constructionEvents (ch : Channel) : List Event :=
  [.clockRead (.channel ch) (Config.now0 ch), .pumpWrite ch Config.pumpOffLevel]

/-- The indexes of the channel units, 0 to `NUM_CHANNELS` − 1 (R39). -/
def channelIndexes : List Channel := (List.range' 0 Config.numChannels).map (BitVec.ofNat 8)

/-- The state right after construction of every channel and of the standalone timer (R230, R231, R233): no operation has been
issued. The order of the constructions in the trace is a DESIGN CHOICE (log 13). -/
def State.reset : State :=
  { channels := channelIndexes.map fun ch => ControllerOf.reset (Config.now0 ch)
    timer := PulseTimerOf.reset Config.timerNow0
    trace := channelIndexes.flatMap constructionEvents ++ [.clockRead .timer Config.timerNow0]
    results := []
    pending := [] }

end Sys2Proof.Machine
end

