-- ==== Sys2Proof/Machine/Operands.lean ====
section
/-! DEFINITION. The operand forms of the codec: the fields of a command word and of a frame (spec/30_encoding.md R70 to R73). -/

namespace Sys2Proof.Machine

/-- `code = word[7:0]` (R72). -/
def codeField (w : CommandWord) : Byte := w.extractLsb' 0 8

/-- `target = word[15:8]`, verbatim (R72, 40_codec.md R131). -/
def targetField (w : CommandWord) : Channel := w.extractLsb' 8 8

/-- `value = word[23:16] | (word[31:24] << 8)` (R72). -/
def valueField (w : CommandWord) : Value :=
  (w.extractLsb' 16 8).setWidth 16 ||| ((w.extractLsb' 24 8).setWidth 16 <<< 8)

/-- The fields put into a frame (R73). The formulas take a value of any width and keep its bits 15:0 (D7, U14). -/
def insertFields {w : Nat} (code : Byte) (target : Channel) (value : BitVec w) : Frame :=
  { b0 := code
    b1 := target
    b2 := (value &&& 0xFF).setWidth 8
    b3 := ((value >>> 8) &&& 0xFF).setWidth 8 }

/-- `DECODE` as a function (40_codec.md R100). -/
def decodeWord (w : CommandWord) : RequestBundle :=
  { request := Request.ofCode (codeField w)
    target := targetField w
    value := valueField w }

/-- `ENCODE` as a function (R101). -/
def encodeFrame {w : Nat} (r : Response) (target : Channel) (value : BitVec w) : Frame :=
  insertFields r.code target value

/-- The word of a request frame `[code, t, v & 0xFF, (v >> 8) & 0xFF]` (R103). -/
def requestWord (code : Byte) (target : Channel) (value : Value) : CommandWord :=
  (insertFields code target value).pack

end Sys2Proof.Machine
end

