-- ==== Sys2Proof/Machine/Ops.lean ====
section
/-! DEFINITION. The shared operations over State: running an operation on one unit and recording its reply, and taking the oldest
issued operation. The block takes no exception and returns from none (spec/60_exceptions.md R200, R206). -/

namespace Sys2Proof.Machine

/-- Append events to the trace, in order (20_memory.md R60). -/
def State.emit (es : List Event) (s : State) : State := { s with trace := s.trace ++ es }

/-- Record the result of an operation (D20). -/
def State.answer (r : Result) (s : State) : State := { s with results := s.results ++ [r] }

/-- Replace the record of channel unit `ch`. -/
def State.setChannel (ch : Channel) (c : Controller) (s : State) : State :=
  { s with channels := s.channels.set ch.toNat c }

/-- Replace the record of the standalone timer. -/
def State.setTimer (p : PulseTimer) (s : State) : State := { s with timer := p }

/-- An operation on channel unit `ch`: it reads and writes that channel's record alone (10_state.md R39). An index that names no
unit is the dispatcher's business and never reaches the block (U12; log 5). -/
def onChannel (ch : Channel) (op : Controller → Reply Controller) (s : State) : Host.Outcome State Fault Refusal :=
  match s.channels[ch.toNat]? with
  | none => .refused (.noSuchChannel ch)
  | some c => .next (((s.setChannel ch (op c).unit).emit (op c).events).answer (op c).result)

/-- An operation on the standalone timer (D30; log 12). -/
def onTimer (op : PulseTimer → Reply PulseTimer) (s : State) : Host.Outcome State Fault Refusal :=
  .next (((s.setTimer (op s.timer).unit).emit (op s.timer).events).answer (op s.timer).result)

/-- A codec operation: it reads and writes no register (10_state.md R22, 40_codec.md R130). -/
def onCodec (r : Result) (s : State) : Host.Outcome State Fault Refusal := .next (s.answer r)

/-- The oldest issued operation, taken off the stream; none while the block waits (20_memory.md R60, R233; log 1). -/
def fetch (s : State) : Option (Issue × State) :=
  match s.pending with
  | [] => none
  | q :: rest => some (q, { s with pending := rest })

/-- The refusal of a packet the decoder does not accept. -/
def refusalOf : DecodeError → Refusal
  | .opSelUnassigned sel => .opSelUnassigned sel
  | .responseCodeUnassigned code => .responseCodeUnassigned code
  | .packetNotWhole port => .packetNotWhole port

/-- Issue a word of the opcode table ahead of everything that is pending. -/
def issueTableWord (s : State) (nbits w : Nat) : State :=
  { s with pending := tableIssue nbits w :: s.pending }

end Sys2Proof.Machine
end

