-- ==== Sys2Proof/Machine/Codec.lean ====
section
/-! DEFINITION. The ProtocolCodec operations (spec/40_codec.md): `DECODE`, `ENCODE`, `ENCODE0`, and the rows for each request and
each response code. None reads or writes a register (R130). -/

namespace Sys2Proof.Machine

/-- `DECODE` (R100). -/
def execCodecDecode (word : CommandWord) (s : State) : Host.Outcome State Fault Refusal :=
  onCodec (.bundle (decodeWord word)) s

/-- `ENCODE` (R101). -/
def execCodecEncode (r : Response) (t : Channel) (v : Value) (s : State) : Host.Outcome State Fault Refusal :=
  onCodec (.frame (encodeFrame r t v)) s

/-- `ENCODE0`, which expands to `ENCODE r, t=0, v=0` (R102, R83). -/
def execCodecEncode0 (r : Response) (s : State) : Host.Outcome State Fault Refusal :=
  onCodec (.frame (encodeFrame r 0 (0 : Value))) s

/-! ### `DECODE` of a request word, by code (R104 to R115) -/

/-- `REQ PING` (R104). -/
def execReqPing (t : Channel) (v : Value) (s : State) : Host.Outcome State Fault Refusal :=
  onCodec (.bundle (decodeWord (requestWord 0x00 t v))) s

/-- `REQ GET_MOISTURE` (R105). -/
def execReqGetMoisture (t : Channel) (v : Value) (s : State) : Host.Outcome State Fault Refusal :=
  onCodec (.bundle (decodeWord (requestWord 0x01 t v))) s

/-- `REQ SET_THRESHOLD` (R106). -/
def execReqSetThreshold (t : Channel) (v : Value) (s : State) : Host.Outcome State Fault Refusal :=
  onCodec (.bundle (decodeWord (requestWord 0x02 t v))) s

/-- `REQ GET_PULSE_LENGTH` (R107). -/
def execReqGetPulseLength (t : Channel) (v : Value) (s : State) : Host.Outcome State Fault Refusal :=
  onCodec (.bundle (decodeWord (requestWord 0x03 t v))) s

/-- `REQ SET_PULSE_LENGTH` (R108). -/
def execReqSetPulseLength (t : Channel) (v : Value) (s : State) : Host.Outcome State Fault Refusal :=
  onCodec (.bundle (decodeWord (requestWord 0x04 t v))) s

/-- `REQ GET_IS_RUNNING` (R109). -/
def execReqGetIsRunning (t : Channel) (v : Value) (s : State) : Host.Outcome State Fault Refusal :=
  onCodec (.bundle (decodeWord (requestWord 0x05 t v))) s

/-- `REQ GET_THRESHOLD` (R110). -/
def execReqGetThreshold (t : Channel) (v : Value) (s : State) : Host.Outcome State Fault Refusal :=
  onCodec (.bundle (decodeWord (requestWord 0x06 t v))) s

/-- `REQ ENABLE` (R111). -/
def execReqEnable (t : Channel) (v : Value) (s : State) : Host.Outcome State Fault Refusal :=
  onCodec (.bundle (decodeWord (requestWord 0x07 t v))) s

/-- `REQ DISABLE` (R112). -/
def execReqDisable (t : Channel) (v : Value) (s : State) : Host.Outcome State Fault Refusal :=
  onCodec (.bundle (decodeWord (requestWord 0x08 t v))) s

/-- `REQ GET_FREQUENCY` (R113). -/
def execReqGetFrequency (t : Channel) (v : Value) (s : State) : Host.Outcome State Fault Refusal :=
  onCodec (.bundle (decodeWord (requestWord 0x09 t v))) s

/-- `REQ SET_FREQUENCY` (R114). -/
def execReqSetFrequency (t : Channel) (v : Value) (s : State) : Host.Outcome State Fault Refusal :=
  onCodec (.bundle (decodeWord (requestWord 0x0A t v))) s

/-- `REQ UNKNOWN` (R115): the bundle does not keep the raw code (R76). -/
def execReqUnknown (code : Byte) (t : Channel) (v : Value) (s : State) : Host.Outcome State Fault Refusal :=
  onCodec (.bundle (decodeWord (requestWord code t v))) s

/-! ### `ENCODE` of a response, by code (R116 to R127) -/

/-- `RSP PONG` (R116). -/
def execRspPong (t : Channel) (v : Value) (s : State) : Host.Outcome State Fault Refusal :=
  onCodec (.frame (encodeFrame .pong t v)) s

/-- `RSP MOISTURE_RESPONSE` (R117). -/
def execRspMoistureResponse (t : Channel) (v : Value) (s : State) : Host.Outcome State Fault Refusal :=
  onCodec (.frame (encodeFrame .moistureResponse t v)) s

/-- `RSP SET_THRESHOLD_RESPONSE` (R118). -/
def execRspSetThresholdResponse (t : Channel) (v : Value) (s : State) : Host.Outcome State Fault Refusal :=
  onCodec (.frame (encodeFrame .setThresholdResponse t v)) s

/-- `RSP PULSE_LENGTH_RESPONSE` (R119). -/
def execRspPulseLengthResponse (t : Channel) (v : Value) (s : State) : Host.Outcome State Fault Refusal :=
  onCodec (.frame (encodeFrame .pulseLengthResponse t v)) s

/-- `RSP SET_PULSE_LENGTH_RESPONSE` (R120). -/
def execRspSetPulseLengthResponse (t : Channel) (v : Value) (s : State) : Host.Outcome State Fault Refusal :=
  onCodec (.frame (encodeFrame .setPulseLengthResponse t v)) s

/-- `RSP IS_RUNNING` (R121). -/
def execRspIsRunning (t : Channel) (v : Value) (s : State) : Host.Outcome State Fault Refusal :=
  onCodec (.frame (encodeFrame .isRunning t v)) s

/-- `RSP THRESHOLD_RESPONSE` (R122). -/
def execRspThresholdResponse (t : Channel) (v : Value) (s : State) : Host.Outcome State Fault Refusal :=
  onCodec (.frame (encodeFrame .thresholdResponse t v)) s

/-- `RSP ENABLE_RESPONSE` (R123). -/
def execRspEnableResponse (t : Channel) (v : Value) (s : State) : Host.Outcome State Fault Refusal :=
  onCodec (.frame (encodeFrame .enableResponse t v)) s

/-- `RSP DISABLE_RESPONSE` (R124). -/
def execRspDisableResponse (t : Channel) (v : Value) (s : State) : Host.Outcome State Fault Refusal :=
  onCodec (.frame (encodeFrame .disableResponse t v)) s

/-- `RSP FREQUENCY_RESPONSE` (R125). -/
def execRspFrequencyResponse (t : Channel) (v : Value) (s : State) : Host.Outcome State Fault Refusal :=
  onCodec (.frame (encodeFrame .frequencyResponse t v)) s

/-- `RSP SET_FREQUENCY_RESPONSE` (R126). -/
def execRspSetFrequencyResponse (t : Channel) (v : Value) (s : State) : Host.Outcome State Fault Refusal :=
  onCodec (.frame (encodeFrame .setFrequencyResponse t v)) s

/-- `RSP INVALID_REQUEST` (R127). -/
def execRspInvalidRequest (t : Channel) (v : Value) (s : State) : Host.Outcome State Fault Refusal :=
  onCodec (.frame (encodeFrame .invalidRequest t v)) s

end Sys2Proof.Machine
end

