-- ==== Sys2Proof/Machine/Flags.lean ====
section
/-! DEFINITION. The comparisons of the block and the flags they feed (spec/10_state.md R34). Every comparison is between the two
values as non-negative integers (00_scope.md R12, D27; log 19). The clock and the reading may have any width here (`TS_WIDTH`,
`MOIST_W`, R9). -/

namespace Sys2Proof.Machine

/-- `now -_W anchor`, the elapsed time: modular subtraction (R12, 41_pulse_timer.md R155, 60_exceptions.md R213). -/
def elapsed {w : Nat} (now anchor : BitVec w) : BitVec w := now - anchor

/-- `e > frequency`, strict: the cycle is over (41_pulse_timer.md R143, 90_conflicts.md C1; log 11). -/
def cycleOver {w : Nat} (e : BitVec w) (frequency : Span) : Bool := decide (frequency.toNat < e.toNat)

/-- `e < pulse_length`, strict: within the on-portion of the cycle (R143). -/
def withinPulse {w : Nat} (e : BitVec w) (pulseLength : Span) : Bool := decide (e.toNat < pulseLength.toNat)

/-- The threshold comparator, strict; a higher reading means the pulse should run (42_controller.md R171). -/
def aboveThreshold {w : Nat} (m : BitVec w) (threshold : Threshold) : Bool := decide (threshold.toNat < m.toNat)

/-- The level that shows `is_on` on the active-low pump output (42_controller.md R170 step 5). -/
def pumpLevel (isOn : Bool) : Level := if isOn then Config.pumpOnLevel else Config.pumpOffLevel

end Sys2Proof.Machine
end

