-- ==== Sys2Proof/Machine/Timer.lean ====
section
/-! DEFINITION. The PulseTimer operations (spec/41_pulse_timer.md R141 to R147), for a clock of any width, and their meanings on the
standalone timer. -/

namespace Sys2Proof.Machine

/-- R141: enter Active; the anchor is not written. -/
def PulseTimerOf.activate {ts : Nat} (p : PulseTimerOf ts) : PulseTimerOf ts := { p with running := true }

/-- R142: enter Idle; the anchor is not written. -/
def PulseTimerOf.deactivate {ts : Nat} (p : PulseTimerOf ts) : PulseTimerOf ts := { p with running := false }

/-- R143 step 2: while Active, a cycle that is over starts anew at `now`. -/
def PulseTimerOf.reanchor {ts : Nat} (now : BitVec ts) (p : PulseTimerOf ts) : PulseTimerOf ts :=
  if p.running && cycleOver (elapsed now p.lastCycleStart) p.frequency then { p with lastCycleStart := now } else p

/-- R143 step 3: Active and within the on-portion. -/
def PulseTimerOf.firesAt {ts : Nat} (now : BitVec ts) (p : PulseTimerOf ts) : Bool :=
  p.running && withinPulse (elapsed now p.lastCycleStart) p.pulseLength

/-- `isFiring` (R143): the timer after the poll, and the answer. `now` is sampled once and used by both steps. -/
def PulseTimerOf.isFiring {ts : Nat} (now : BitVec ts) (p : PulseTimerOf ts) : PulseTimerOf ts × Bool :=
  (p.reanchor now, (p.reanchor now).firesAt now)

/-- `PT.ACTIVATE` (R141). -/
def execPtActivate (s : State) : Host.Outcome State Fault Refusal :=
  onTimer (fun p => ⟨p.activate, [], .none⟩) s

/-- `PT.DEACTIVATE` (R142). -/
def execPtDeactivate (s : State) : Host.Outcome State Fault Refusal :=
  onTimer (fun p => ⟨p.deactivate, [], .none⟩) s

/-- `PT.IS_FIRING` (R143); it reads the clock once, at step 1, in either state of the timer (R212). -/
def execPtIsFiring (now : Timestamp) (s : State) : Host.Outcome State Fault Refusal :=
  onTimer (fun p => ⟨(p.isFiring now).1, [.clockRead .timer now], .bool (p.isFiring now).2⟩) s

/-- `PT.GET_PULSE_LENGTH` (R144). -/
def execPtGetPulseLength (s : State) : Host.Outcome State Fault Refusal :=
  onTimer (fun p => ⟨p, [], .word p.pulseLength⟩) s

/-- `PT.SET_PULSE_LENGTH` (R145): every value is stored. -/
def execPtSetPulseLength (arg : Span) (s : State) : Host.Outcome State Fault Refusal :=
  onTimer (fun p => ⟨{ p with pulseLength := arg }, [], .none⟩) s

/-- `PT.GET_FREQUENCY` (R146). -/
def execPtGetFrequency (s : State) : Host.Outcome State Fault Refusal :=
  onTimer (fun p => ⟨p, [], .word p.frequency⟩) s

/-- `PT.SET_FREQUENCY` (R147): every value is stored. -/
def execPtSetFrequency (arg : Span) (s : State) : Host.Outcome State Fault Refusal :=
  onTimer (fun p => ⟨{ p with frequency := arg }, [], .none⟩) s

end Sys2Proof.Machine
end

