-- ==== Sys2Proof/Machine/Control.lean ====
section
/-! DEFINITION. The ActuatorController operations (spec/42_controller.md R170 to R182). -/

namespace Sys2Proof.Machine

/-- R170 step 3: the comparator activates the timer, or deactivates it. -/
def ControllerOf.armed {ts ms : Nat} (m : BitVec ms) (c : ControllerOf ts) : PulseTimerOf ts :=
  if aboveThreshold m c.humidityThreshold then c.pulse.activate else c.pulse.deactivate

/-- What an enabled step does to the registers, and its result (R170 steps 3 to 6), for a clock and a reading of any width: the
comparator activates or deactivates the timer, the timer is polled, and the pump is driven. -/
def ControllerOf.stepped {ts ms : Nat} (now : BitVec ts) (m : BitVec ms) (c : ControllerOf ts) : ControllerOf ts × Bool :=
  let isOn := ((c.armed m).isFiring now).2
  ({ c with pulse := ((c.armed m).isFiring now).1, pumpOut := pumpLevel isOn }, isOn)

/-- The enabled step with its events: the sensor is read, then the clock, and then the pump is written (D23; log 18). -/
def Controller.poll (ch : Channel) (now : Timestamp) (m : Moisture) (c : Controller) : Reply Controller :=
  { unit := (c.stepped now m).1
    events := [.sensorRead ch m, .clockRead (.channel ch) now, .pumpWrite ch (pumpLevel (c.stepped now m).2)]
    result := .bool (c.stepped now m).2 }

/-- `CTL.STEP` (R170). Disabled, it reads nothing, writes nothing and returns false. -/
def execCtlStep (ch : Channel) (now : Timestamp) (m : Moisture) (s : State) : Host.Outcome State Fault Refusal :=
  onChannel ch (fun c => if c.enabled then c.poll ch now m else ⟨c, [], .bool false⟩) s

/-- `CTL.ENABLE` (R173). -/
def execCtlEnable (ch : Channel) (s : State) : Host.Outcome State Fault Refusal :=
  onChannel ch (fun c => ⟨{ c with enabled := true }, [], .none⟩) s

/-- `CTL.DISABLE` (R174): the pump is forced off at once, whatever the phase. -/
def execCtlDisable (ch : Channel) (s : State) : Host.Outcome State Fault Refusal :=
  onChannel ch
    (fun c =>
      ⟨{ c with enabled := false, pumpOut := Config.pumpOffLevel, pulse := c.pulse.deactivate },
        [.pumpWrite ch Config.pumpOffLevel], .none⟩) s

/-- `CTL.GET_MOISTURE` (R177): one fresh sensor read, enabled or not. -/
def execCtlGetMoisture (ch : Channel) (m : Moisture) (s : State) : Host.Outcome State Fault Refusal :=
  onChannel ch (fun c => ⟨c, [.sensorRead ch m], .moisture m⟩) s

/-- `CTL.GET_THRESHOLD` (R175). -/
def execCtlGetThreshold (ch : Channel) (s : State) : Host.Outcome State Fault Refusal :=
  onChannel ch (fun c => ⟨c, [], .half c.humidityThreshold⟩) s

/-- `CTL.SET_THRESHOLD` (R176). -/
def execCtlSetThreshold (ch : Channel) (arg : Threshold) (s : State) : Host.Outcome State Fault Refusal :=
  onChannel ch (fun c => ⟨{ c with humidityThreshold := arg }, [], .none⟩) s

/-- `CTL.GET_PULSE_LENGTH` (R178). -/
def execCtlGetPulseLength (ch : Channel) (s : State) : Host.Outcome State Fault Refusal :=
  onChannel ch (fun c => ⟨c, [], .word c.pulse.pulseLength⟩) s

/-- `CTL.SET_PULSE_LENGTH` (R179). -/
def execCtlSetPulseLength (ch : Channel) (arg : Span) (s : State) : Host.Outcome State Fault Refusal :=
  onChannel ch (fun c => ⟨{ c with pulse := { c.pulse with pulseLength := arg } }, [], .none⟩) s

/-- `CTL.GET_FREQUENCY` (R180). -/
def execCtlGetFrequency (ch : Channel) (s : State) : Host.Outcome State Fault Refusal :=
  onChannel ch (fun c => ⟨c, [], .word c.pulse.frequency⟩) s

/-- `CTL.SET_FREQUENCY` (R181). -/
def execCtlSetFrequency (ch : Channel) (arg : Span) (s : State) : Host.Outcome State Fault Refusal :=
  onChannel ch (fun c => ⟨{ c with pulse := { c.pulse with frequency := arg } }, [], .none⟩) s

/-- `CTL.IS_RUNNING` (R182): it polls the timer, drives no pin, reads no sensor and does not look at `enabled`. -/
def execCtlIsRunning (ch : Channel) (now : Timestamp) (s : State) : Host.Outcome State Fault Refusal :=
  onChannel ch
    (fun c =>
      ⟨{ c with pulse := (c.pulse.isFiring now).1 }, [.clockRead (.channel ch) now], .bool (c.pulse.isFiring now).2⟩) s

end Sys2Proof.Machine
end

