-- ==== Sys2Proof/Machine/Dispatch.lean ====
section
/-! DEFINITION. One arm per instruction. -/

namespace Sys2Proof.Machine

def exec (i : Instr) (s : State) : Host.Outcome State Fault Refusal :=
  match i with
  | .ctlStep ch now m => Sys2Proof.Machine.execCtlStep ch now m s
  | .ctlEnable ch => Sys2Proof.Machine.execCtlEnable ch s
  | .ctlDisable ch => Sys2Proof.Machine.execCtlDisable ch s
  | .ctlGetMoisture ch m => Sys2Proof.Machine.execCtlGetMoisture ch m s
  | .ctlGetThreshold ch => Sys2Proof.Machine.execCtlGetThreshold ch s
  | .ctlSetThreshold ch arg => Sys2Proof.Machine.execCtlSetThreshold ch arg s
  | .ctlGetPulseLength ch => Sys2Proof.Machine.execCtlGetPulseLength ch s
  | .ctlSetPulseLength ch arg => Sys2Proof.Machine.execCtlSetPulseLength ch arg s
  | .ctlGetFrequency ch => Sys2Proof.Machine.execCtlGetFrequency ch s
  | .ctlSetFrequency ch arg => Sys2Proof.Machine.execCtlSetFrequency ch arg s
  | .ctlIsRunning ch now => Sys2Proof.Machine.execCtlIsRunning ch now s
  | .ptActivate => Sys2Proof.Machine.execPtActivate s
  | .ptDeactivate => Sys2Proof.Machine.execPtDeactivate s
  | .ptIsFiring now => Sys2Proof.Machine.execPtIsFiring now s
  | .ptGetPulseLength => Sys2Proof.Machine.execPtGetPulseLength s
  | .ptSetPulseLength arg => Sys2Proof.Machine.execPtSetPulseLength arg s
  | .ptGetFrequency => Sys2Proof.Machine.execPtGetFrequency s
  | .ptSetFrequency arg => Sys2Proof.Machine.execPtSetFrequency arg s
  | .codecDecode word => Sys2Proof.Machine.execCodecDecode word s
  | .codecEncode r t v => Sys2Proof.Machine.execCodecEncode r t v s
  | .codecEncode0 r => Sys2Proof.Machine.execCodecEncode0 r s
  | .reqPing t v => Sys2Proof.Machine.execReqPing t v s
  | .reqGetMoisture t v => Sys2Proof.Machine.execReqGetMoisture t v s
  | .reqSetThreshold t v => Sys2Proof.Machine.execReqSetThreshold t v s
  | .reqGetPulseLength t v => Sys2Proof.Machine.execReqGetPulseLength t v s
  | .reqSetPulseLength t v => Sys2Proof.Machine.execReqSetPulseLength t v s
  | .reqGetIsRunning t v => Sys2Proof.Machine.execReqGetIsRunning t v s
  | .reqGetThreshold t v => Sys2Proof.Machine.execReqGetThreshold t v s
  | .reqEnable t v => Sys2Proof.Machine.execReqEnable t v s
  | .reqDisable t v => Sys2Proof.Machine.execReqDisable t v s
  | .reqGetFrequency t v => Sys2Proof.Machine.execReqGetFrequency t v s
  | .reqSetFrequency t v => Sys2Proof.Machine.execReqSetFrequency t v s
  | .reqUnknown code t v => Sys2Proof.Machine.execReqUnknown code t v s
  | .rspPong t v => Sys2Proof.Machine.execRspPong t v s
  | .rspMoistureResponse t v => Sys2Proof.Machine.execRspMoistureResponse t v s
  | .rspSetThresholdResponse t v => Sys2Proof.Machine.execRspSetThresholdResponse t v s
  | .rspPulseLengthResponse t v => Sys2Proof.Machine.execRspPulseLengthResponse t v s
  | .rspSetPulseLengthResponse t v => Sys2Proof.Machine.execRspSetPulseLengthResponse t v s
  | .rspIsRunning t v => Sys2Proof.Machine.execRspIsRunning t v s
  | .rspThresholdResponse t v => Sys2Proof.Machine.execRspThresholdResponse t v s
  | .rspEnableResponse t v => Sys2Proof.Machine.execRspEnableResponse t v s
  | .rspDisableResponse t v => Sys2Proof.Machine.execRspDisableResponse t v s
  | .rspFrequencyResponse t v => Sys2Proof.Machine.execRspFrequencyResponse t v s
  | .rspSetFrequencyResponse t v => Sys2Proof.Machine.execRspSetFrequencyResponse t v s
  | .rspInvalidRequest t v => Sys2Proof.Machine.execRspInvalidRequest t v s

end Sys2Proof.Machine
end

