-- ==== Sys2Proof/Machine/Step.lean ====
section
/-! DEFINITION. One step: the oldest issued operation is taken, decoded and executed. While nothing is pending the block waits,
and its state does not change (spec/70_reset_and_hazards.md R233, 60_exceptions.md R220; log 1). -/

namespace Sys2Proof.Machine

/-- One step of the machine. -/
def step (s : State) : Host.Outcome State Fault Refusal :=
  match fetch s with
  | none => .next s
  | some (q, s') =>
    match decode q with
    | .ok i => exec i s'
    | .error e => .refused (refusalOf e)

/-- The state in which the next step runs a word of the opcode table (log 1, log 4). -/
def State.withFetchWord (s : State) (nbits w : Nat) : State := issueTableWord s nbits w

end Sys2Proof.Machine
end

