-- ==== Sys2Proof/Safety.lean ====
section
/-! DEFINITION. What counts as a safe run, and the projections of the trace that claims use. -/

namespace Sys2Proof.Machine

/-- The pump writes of one channel among some events, oldest first (spec/10_state.md R31). -/
def pumpWritesOf (ch : Channel) : List Event → List Level
  | [] => []
  | .pumpWrite d level :: es => if d = ch then level :: pumpWritesOf ch es else pumpWritesOf ch es
  | .sensorRead _ _ :: es => pumpWritesOf ch es
  | .clockRead _ _ :: es => pumpWritesOf ch es

/-- The clock readings among some events, with who took them (60_exceptions.md R212). -/
def clockReadsOf : List Event → List (Reader × Timestamp)
  | [] => []
  | .clockRead reader now :: es => (reader, now) :: clockReadsOf es
  | .sensorRead _ _ :: es => clockReadsOf es
  | .pumpWrite _ _ :: es => clockReadsOf es

/-- The sensor readings among some events, with their channels (42_controller.md R172). -/
def sensorReadsOf : List Event → List (Channel × Moisture)
  | [] => []
  | .sensorRead ch m :: es => (ch, m) :: sensorReadsOf es
  | .clockRead _ _ :: es => sensorReadsOf es
  | .pumpWrite _ _ :: es => sensorReadsOf es

/-- A disabled channel is Idle and its pump is off: the safety invariant of 42_controller.md R184. -/
def Controller.DisabledIsOff (c : Controller) : Prop :=
  c.enabled = false → c.pulse.running = false ∧ c.pumpOut = .high

/-- A running pump belongs to an enabled channel whose timer is Active (from R170, R173 and R174). -/
def Controller.PumpOnIsActive (c : Controller) : Prop :=
  c.pumpOut = .low → c.enabled = true ∧ c.pulse.running = true

/-- The invariant of the machine: the channel units are the constructed ones (10_state.md R39), each is safe, and the pump output
of each is the level last written to it (R31). -/
structure State.Inv (s : State) : Prop where
  channelCount : s.channels.length = Config.numChannels
  disabledIsOff : ∀ c ∈ s.channels, c.DisabledIsOff
  pumpOnIsActive : ∀ c ∈ s.channels, c.PumpOnIsActive
  pumpOutIsLastWrite : ∀ (ch : Channel) (c : Controller), s.channels[ch.toNat]? = some c →
    (pumpWritesOf ch s.trace).getLast? = some c.pumpOut

end Sys2Proof.Machine
end

