-- ==== Sys2Proof/WellFormed.lean ====
section
/-! DEFINITION. Well-formed instructions. The operand widths are in the types (spec/30_encoding.md R81), and a response is a
variant of its closed enumeration (R78), so one check is left: the code of a `REQ_UNKNOWN` row. -/

namespace Sys2Proof

/-- The code bytes that name no request: 0x0B to 0xFF (R74, R115). -/
def unnamedRequestCode (code : Byte) : Bool := decide (0x0A < code.toNat)

/-- An instruction some row of the opcode table stands for: the row `REQ_UNKNOWN` has a code outside 0x00 to 0x0A. -/
def Instr.wf : Instr → Bool
  | .reqUnknown code _ _ => unnamedRequestCode code
  | .ctlStep _ _ _ | .ctlEnable _ | .ctlDisable _ | .ctlGetMoisture _ _ | .ctlGetThreshold _
  | .ctlSetThreshold _ _ | .ctlGetPulseLength _ | .ctlSetPulseLength _ _ | .ctlGetFrequency _
  | .ctlSetFrequency _ _ | .ctlIsRunning _ _ => true
  | .ptActivate | .ptDeactivate | .ptIsFiring _ | .ptGetPulseLength | .ptSetPulseLength _ | .ptGetFrequency
  | .ptSetFrequency _ => true
  | .codecDecode _ | .codecEncode _ _ _ | .codecEncode0 _ => true
  | .reqPing _ _ | .reqGetMoisture _ _ | .reqSetThreshold _ _ | .reqGetPulseLength _ _ | .reqSetPulseLength _ _
  | .reqGetIsRunning _ _ | .reqGetThreshold _ _ | .reqEnable _ _ | .reqDisable _ _ | .reqGetFrequency _ _
  | .reqSetFrequency _ _ => true
  | .rspPong _ _ | .rspMoistureResponse _ _ | .rspSetThresholdResponse _ _ | .rspPulseLengthResponse _ _
  | .rspSetPulseLengthResponse _ _ | .rspIsRunning _ _ | .rspThresholdResponse _ _ | .rspEnableResponse _ _
  | .rspDisableResponse _ _ | .rspFrequencyResponse _ _ | .rspSetFrequencyResponse _ _
  | .rspInvalidRequest _ _ => true

end Sys2Proof
end

