-- ==== Sys2Proof/Certificates/Slice0/Obligations.lean ====
section
/-! DEFINITION. The statements, from the numbered rules of spec/. The rules of the timer are stated in arithmetic on natural
numbers modulo 2^TS_WIDTH of their own (namespace Claim), not in the model's functions.
In each statement the fields `results`, `trace` and `pending` are the model's observation and its operation stream (log 1, log 14):
an operation that returns nothing adds the result `.none`, and the readings an operation takes stand in the trace (log 2). A rule
named beside the words "the spec's own inference" is marked derived or decided in the spec, and its statement is a derived one. -/

namespace Sys2Proof.Claim

open Sys2Proof.Machine

/-- The elapsed time `(now − anchor) mod 2^W` for a clock of `W` bits (00_scope.md R12). -/
def elapsed {ts : Nat} (now anchor : BitVec ts) : Nat := (now.toNat + (2 ^ ts - anchor.toNat)) % 2 ^ ts

/-- The anchor after `isFiring` at `now` (41_pulse_timer.md R143 step 2). -/
def anchorAfter {ts : Nat} (p : PulseTimerOf ts) (now : BitVec ts) : BitVec ts :=
  if p.running = true ∧ p.frequency.toNat < elapsed now p.lastCycleStart then now else p.lastCycleStart

/-- The timer after `isFiring` at `now`: the anchor is all that may have moved. -/
def polled {ts : Nat} (p : PulseTimerOf ts) (now : BitVec ts) : PulseTimerOf ts := { p with lastCycleStart := anchorAfter p now }

/-- The answer of `isFiring` at `now` (R143 step 3). -/
def fires {ts : Nat} (p : PulseTimerOf ts) (now : BitVec ts) : Bool :=
  decide (p.running = true ∧ elapsed now (anchorAfter p now) < p.pulseLength.toNat)

/-- The named requests by ordinal (30_encoding.md R74). -/
def requests : List Request :=
  [.ping, .getMoisture, .setThreshold, .getPulseLength, .setPulseLength, .getIsRunning, .getThreshold, .enable, .disable,
    .getFrequency, .setFrequency]

/-- The request a code number stands for: the one at that ordinal, or UNKNOWN (R74, R77). -/
def requestOfNumber (n : Nat) : Request := (requests[n]?).getD .unknown

/-- The number of each response code (R75). -/
def responseNumber : Response → Nat
  | .pong => 0
  | .moistureResponse => 1
  | .setThresholdResponse => 2
  | .pulseLengthResponse => 3
  | .setPulseLengthResponse => 4
  | .isRunning => 5
  | .thresholdResponse => 6
  | .enableResponse => 7
  | .disableResponse => 8
  | .frequencyResponse => 9
  | .setFrequencyResponse => 10
  | .invalidRequest => 255

/-- A frame holds these numbers. -/
def frameHolds (f : Frame) (n0 n1 n2 n3 : Nat) : Prop :=
  f.b0.toNat = n0 ∧ f.b1.toNat = n1 ∧ f.b2.toNat = n2 ∧ f.b3.toNat = n3

/-- A request row: executing it, executing `DECODE` of the word with that code byte, target and value, and decoding that word at the
decode input agree (40_codec.md section 2). -/
def requestRowGives (code : Nat) (q : Request) (row : Channel → Value → Instr) : Prop :=
  ∀ (s : State) (t : Channel) (v : Value) (word : CommandWord), word.toNat = code + 2 ^ 8 * t.toNat + 2 ^ 16 * v.toNat →
    exec (row t v) s = .next { s with results := s.results ++ [.bundle ⟨q, t, v⟩] } ∧
    exec (.codecDecode word) s = .next { s with results := s.results ++ [.bundle ⟨q, t, v⟩] } ∧
    decode ⟨0, .command, (Frame.unpack word).bytes⟩ = .ok (row t v)

/-- A response row: executing it and executing `ENCODE` of the response give the frame with that code byte; the encode input
reads it as the row, and `DECODE` of it gives the mirrored request (40_codec.md section 3). -/
def responseRowGives (r : Response) (code : Nat) (q : Request) (row : Channel → Value → Instr) : Prop :=
  ∀ (s : State) (t : Channel) (v : Value),
    ∃ f : Frame, frameHolds f code t.toNat (v.toNat % 256) (v.toNat / 256) ∧
      exec (row t v) s = .next { s with results := s.results ++ [.frame f] } ∧
      exec (.codecEncode r t v) s = .next { s with results := s.results ++ [.frame f] } ∧
      decode ⟨0, .response, f.bytes⟩ = .ok (row t v) ∧
      exec (.codecDecode f.pack) s = .next { s with results := s.results ++ [.bundle ⟨q, t, v⟩] }

/-- The instruction is `CTL.STEP` or `CTL.DISABLE` on this channel: the two operations that drive its pump. -/
def DrivesPump (ch : Channel) (i : Instr) : Prop := i = .ctlDisable ch ∨ ∃ now m, i = .ctlStep ch now m

end Sys2Proof.Claim

open Sys2Proof Sys2Proof.Machine

/-! ### Reset, the stream and the encodings -/

/-- 70_reset_and_hazards.md R230, R231. The spec's own decisions in it: one clock reading shared by a controller and its timer (D13;
log 8), the count of channel units (D15; log 6), and one standalone timer (D30; log 12). -/
def Obligations.ConstructionLeavesResetValues : Prop :=
  State.reset.channels.length = Config.numChannels ∧
  (∀ (ch : Channel), ch.toNat < Config.numChannels →
    State.reset.channels[ch.toNat]? = some
      { humidityThreshold := 1000
        enabled := true
        pulse :=
          { running := false
            frequency := Config.ptResetFrequency
            pulseLength := Config.ptResetPulseLength
            lastCycleStart := Config.now0 ch }
        pumpOut := .high } ∧
    pumpWritesOf ch State.reset.trace = [.high] ∧
    (clockReadsOf State.reset.trace).filter (fun e => e.1 = .channel ch) = [(.channel ch, Config.now0 ch)]) ∧
  State.reset.timer =
    { running := false
      frequency := Config.ptResetFrequency
      pulseLength := Config.ptResetPulseLength
      lastCycleStart := Config.timerNow0 } ∧
  (clockReadsOf State.reset.trace).filter (fun e => e.1 = .timer) = [(.timer, Config.timerNow0)]

/-- The invariant of `Safety.lean` holds after construction. -/
def Obligations.ResetMeetsInvariant : Prop := State.reset.Inv

/-- The invariant is kept by every step, from every state that meets it. -/
def Obligations.EveryStepKeepsInvariant : Prop :=
  ∀ s t : State, s.Inv → step s = .next t → t.Inv

/-- 42_controller.md R184: whatever operations the host issues, in every state reached from reset (the spec's own inference). -/
def Obligations.DisabledChannelIsOffInEveryRun : Prop :=
  ∀ (operations : List Issue) (n : Nat) (t : State),
    Host.Core.run core n { State.reset with pending := operations } = .next t →
    ∀ c ∈ t.channels, c.enabled = false → c.pulse.running = false ∧ c.pumpOut = .high

/-- Decoding the encoding of any well-formed instruction gives it back. -/
def Obligations.DecodeInvertsEncode : Prop :=
  ∀ i : Instr, i.wf = true → decode (encode i) = .ok i

/-- Each accepted packet is the one the encoder writes for the instruction it decodes to, so no two packets of one port share a
meaning, and what the decoder accepts is well-formed. -/
def Obligations.EncodeInvertsDecode : Prop :=
  ∀ (q : Issue) (i : Instr), decode q = .ok i →
    i.wf = true ∧ (encode i).port = q.port ∧ (encode i).packet = q.packet ∧
    (∀ ch, i.channel? = some ch → ch = q.channel ∧ (encode i).channel = q.channel)

/-- The step takes the oldest issued operation off the stream and executes it; it refuses what the decoder refuses. The
stream is the model's (log 1). -/
def Obligations.StepRunsOldestOperation : Prop :=
  ∀ (s : State) (q : Issue) (rest : List Issue), s.pending = q :: rest →
    (∀ i, decode q = .ok i → step s = exec i { s with pending := rest }) ∧
    (∀ e, decode q = .error e → step s = .refused (refusalOf e))

/-- A table word is decoded and then executed by the very next step (log 1, log 4). -/
def Obligations.TableWordRunsNext : Prop :=
  ∀ (s : State) (nbits w : Nat) (i : Instr), decodeTableWord nbits w = some i →
    step (s.withFetchWord nbits w) = exec i s

/-- Packets written out from the tables of 30_encoding.md R80 and R74, R75 with operands of 95_test_vectors.md decode to the
instructions they stand for; the byte order of an operand (log 3) and the port a frame is read at (log 4) are the model's. -/
def Obligations.SpecPacketsDecode : Prop :=
  decode ⟨3, .opSel, [0x00, 0xC4, 0x09, 0x00, 0x00, 0xB0, 0x04]⟩ = .ok (.ctlStep 3 2500 1200) ∧
  decode ⟨0, .opSel, [0x05, 0x00, 0x02]⟩ = .ok (.ctlSetThreshold 0 512) ∧
  decode ⟨0, .opSel, [0x09, 0x88, 0x13, 0x00, 0x00]⟩ = .ok (.ctlSetFrequency 0 5000) ∧
  decode ⟨0, .opSel, [0x12, 0x89, 0x13, 0x00, 0x00]⟩ = .ok (.ptIsFiring 5001) ∧
  decode ⟨0, .opSel, [0x20, 0x02, 0x03, 0x00, 0x02]⟩ = .ok (.codecDecode 0x02000302) ∧
  decode ⟨0, .opSel, [0x21, 0x06, 0x03, 0x00, 0x02]⟩ = .ok (.codecEncode .thresholdResponse 3 512) ∧
  decode ⟨0, .opSel, [0x22, 0xFF]⟩ = .ok (.codecEncode0 .invalidRequest) ∧
  decode ⟨0, .command, [0x02, 0x03, 0x00, 0x02]⟩ = .ok (.reqSetThreshold 3 512) ∧
  decode ⟨0, .command, [0x0B, 0x01, 0x00, 0x00]⟩ = .ok (.reqUnknown 0x0B 1 0) ∧
  decode ⟨0, .response, [0x09, 0x00, 0x88, 0x13]⟩ = .ok (.rspFrequencyResponse 0 5000)

/-- The boundary refuses exactly the op_sel bytes R80 does not list, the numeric codes R78 does not admit, and packets that are
no whole frame or operation: the model's boundary (log 15). -/
def Obligations.BoundaryRefusesByName : Prop :=
  (∀ (ch : Channel) (sel : Byte) (rest : List Byte),
    decode ⟨ch, .opSel, sel :: rest⟩ = .error (.opSelUnassigned sel) ↔
      ¬ (sel.toNat ≤ 0x0A ∨ (0x10 ≤ sel.toNat ∧ sel.toNat ≤ 0x16) ∨ (0x20 ≤ sel.toNat ∧ sel.toNat ≤ 0x22))) ∧
  (∀ (ch : Channel) (code t lo hi : Byte),
    decode ⟨ch, .response, [code, t, lo, hi]⟩ = .error (.responseCodeUnassigned code) ↔
      0x0B ≤ code.toNat ∧ code.toNat ≤ 0xFE) ∧
  (∀ (ch : Channel) (code t lo hi : Byte),
    decode ⟨ch, .opSel, [0x21, code, t, lo, hi]⟩ = .error (.responseCodeUnassigned code) ↔
      0x0B ≤ code.toNat ∧ code.toNat ≤ 0xFE) ∧
  (∀ (ch : Channel) (code : Byte),
    decode ⟨ch, .opSel, [0x22, code]⟩ = .error (.responseCodeUnassigned code) ↔
      0x0B ≤ code.toNat ∧ code.toNat ≤ 0xFE) ∧
  (∀ (ch : Channel) (sel : Byte) (rest : List Byte) (n : Nat), packetLength sel.toNat = some n →
    (decode ⟨ch, .opSel, sel :: rest⟩ = .error (.packetNotWhole .opSel) ↔ rest.length + 1 ≠ n)) ∧
  (∀ (ch : Channel) (bytes : List Byte),
    decode ⟨ch, .command, bytes⟩ = .error (.packetNotWhole .command) ↔ bytes.length ≠ 4) ∧
  (∀ (ch : Channel) (bytes : List Byte),
    decode ⟨ch, .response, bytes⟩ = .error (.packetNotWhole .response) ↔ bytes.length ≠ 4)

/-- A word of the opcode table that is no frame and whose first byte R80 does not list, or that is longer than its operation, decodes
to nothing and is refused by name at the next step: the model's reading of such words (log 4, log 15). -/
def Obligations.TableWordsThatAreNoOperationAreRefused : Prop :=
  ∀ (s : State) (nbits w : Nat), nbits ≠ 32 →
    (packetLength (w % 2 ^ nbits % 256) = none →
      decodeTableWord nbits w = none ∧
      step (s.withFetchWord nbits w) = .refused (.opSelUnassigned (BitVec.ofNat 8 (w % 2 ^ nbits % 256)))) ∧
    (∀ n, packetLength (w % 2 ^ nbits % 256) = some n → n < byteCount nbits →
      decodeTableWord nbits w = none ∧ step (s.withFetchWord nbits w) = .refused (.packetNotWhole .opSel))

/-! ### The codec -/

/-- 30_encoding.md R71: the two maps, and that they are inverse to each other (the spec's own inference). -/
def Obligations.PackAndUnpackAreInverse : Prop :=
  (∀ f : Frame, f.pack.toNat = f.b0.toNat + 2 ^ 8 * f.b1.toNat + 2 ^ 16 * f.b2.toNat + 2 ^ 24 * f.b3.toNat) ∧
  (∀ w : CommandWord, Claim.frameHolds (Frame.unpack w) (w.toNat % 256) (w.toNat / 2 ^ 8 % 256) (w.toNat / 2 ^ 16 % 256)
    (w.toNat / 2 ^ 24 % 256)) ∧
  (∀ f : Frame, Frame.unpack f.pack = f) ∧
  (∀ w : CommandWord, (Frame.unpack w).pack = w)

/-- 40_codec.md R100, 30_encoding.md R72, R74: every word has its bundle, and no register changes. -/
def Obligations.DecodeSplitsEveryWord : Prop :=
  ∀ (s : State) (word : CommandWord),
    ∃ b : RequestBundle,
      exec (.codecDecode word) s = .next { s with results := s.results ++ [.bundle b] } ∧
      b.request = Claim.requestOfNumber (word.toNat % 256) ∧
      b.target.toNat = word.toNat / 2 ^ 8 % 256 ∧
      b.value.toNat = word.toNat / 2 ^ 16

/-- 30_encoding.md R76: every code from 0x0B up decodes to UNKNOWN, and two such codes cannot be told apart. -/
def Obligations.UnknownCodesAreOneValue : Prop :=
  ∀ (s : State) (w w' : CommandWord), 0x0B ≤ w.toNat % 256 → 0x0B ≤ w'.toNat % 256 → w.toNat / 256 = w'.toNat / 256 →
    exec (.codecDecode w) s = exec (.codecDecode w') s ∧
    ∃ b : RequestBundle, b.request = .unknown ∧
      exec (.codecDecode w) s = .next { s with results := s.results ++ [.bundle b] }

/-- 40_codec.md R101, 30_encoding.md R73, R75; that a wider value keeps its low 16 bits is the spec's own inference, decision D7. -/
def Obligations.EncodeBuildsFrame : Prop :=
  ∀ (s : State) (r : Response) (t : Channel) (v : Value),
    ∃ f : Frame,
      exec (.codecEncode r t v) s = .next { s with results := s.results ++ [.frame f] } ∧
      Claim.frameHolds f (Claim.responseNumber r) t.toNat (v.toNat % 256) (v.toNat / 256) ∧
      ∀ (w : Nat) (wide : BitVec w), 16 ≤ w → wide.toNat % 2 ^ 16 = v.toNat → encodeFrame r t wide = f

/-- 30_encoding.md R73: the formulas keep bits 15:0 of a value of any greater width (the spec's own inference, decision D7). -/
def Obligations.WideValueKeepsLowSixteenBits : Prop :=
  ∀ (w : Nat) (r : Response) (t : Channel) (v : BitVec w), 16 ≤ w →
    encodeFrame r t v = encodeFrame r t (v.setWidth 16) ∧
    Claim.frameHolds (encodeFrame r t v) (Claim.responseNumber r) t.toNat (v.toNat % 256) (v.toNat / 256 % 256)

/-- 40_codec.md R102, 30_encoding.md R83. -/
def Obligations.EncodeZeroExpandsToEncode : Prop :=
  ∀ (s : State) (r : Response),
    exec (.codecEncode0 r) s = exec (.codecEncode r 0 0) s ∧
    ∃ f : Frame,
      exec (.codecEncode0 r) s = .next { s with results := s.results ++ [.frame f] } ∧
      Claim.frameHolds f (Claim.responseNumber r) 0 0 0

/-- 40_codec.md R104 to R115; that the command port reads the frame as the row is the model's choice (log 4). -/
def Obligations.RequestWordsGiveTheirBundles : Prop :=
  Claim.requestRowGives 0x00 .ping .reqPing ∧
  Claim.requestRowGives 0x01 .getMoisture .reqGetMoisture ∧
  Claim.requestRowGives 0x02 .setThreshold .reqSetThreshold ∧
  Claim.requestRowGives 0x03 .getPulseLength .reqGetPulseLength ∧
  Claim.requestRowGives 0x04 .setPulseLength .reqSetPulseLength ∧
  Claim.requestRowGives 0x05 .getIsRunning .reqGetIsRunning ∧
  Claim.requestRowGives 0x06 .getThreshold .reqGetThreshold ∧
  Claim.requestRowGives 0x07 .enable .reqEnable ∧
  Claim.requestRowGives 0x08 .disable .reqDisable ∧
  Claim.requestRowGives 0x09 .getFrequency .reqGetFrequency ∧
  Claim.requestRowGives 0x0A .setFrequency .reqSetFrequency ∧
  ∀ code : Byte, 0x0B ≤ code.toNat → Claim.requestRowGives code.toNat .unknown (.reqUnknown code)

/-- 40_codec.md R116 to R127; that the response port reads the frame as the row is the model's choice (log 4), and that `DECODE`
of the frame gives the mirrored request is R129 (the spec's own inference). -/
def Obligations.ResponsesGiveTheirFrames : Prop :=
  Claim.responseRowGives .pong 0x00 .ping .rspPong ∧
  Claim.responseRowGives .moistureResponse 0x01 .getMoisture .rspMoistureResponse ∧
  Claim.responseRowGives .setThresholdResponse 0x02 .setThreshold .rspSetThresholdResponse ∧
  Claim.responseRowGives .pulseLengthResponse 0x03 .getPulseLength .rspPulseLengthResponse ∧
  Claim.responseRowGives .setPulseLengthResponse 0x04 .setPulseLength .rspSetPulseLengthResponse ∧
  Claim.responseRowGives .isRunning 0x05 .getIsRunning .rspIsRunning ∧
  Claim.responseRowGives .thresholdResponse 0x06 .getThreshold .rspThresholdResponse ∧
  Claim.responseRowGives .enableResponse 0x07 .enable .rspEnableResponse ∧
  Claim.responseRowGives .disableResponse 0x08 .disable .rspDisableResponse ∧
  Claim.responseRowGives .frequencyResponse 0x09 .getFrequency .rspFrequencyResponse ∧
  Claim.responseRowGives .setFrequencyResponse 0x0A .setFrequency .rspSetFrequencyResponse ∧
  Claim.responseRowGives .invalidRequest 0xFF .unknown .rspInvalidRequest

/-- 40_codec.md R128: the target and the value are recovered from the encoded frame. -/
def Obligations.EncodedFrameGivesTargetAndValueBack : Prop :=
  ∀ (r : Response) (t : Channel) (v : Value) (s : State),
    ∃ f : Frame, exec (.codecEncode r t v) s = .next { s with results := s.results ++ [.frame f] } ∧
      f.b1 = t ∧ f.b2.setWidth 16 ||| (f.b3.setWidth 16 <<< 8) = v

/-- 40_codec.md R129: decoding an encoded response gives the request at the same position (the spec's own inference). -/
def Obligations.DecodingAResponseGivesItsRequest : Prop :=
  ∀ (r : Response) (t : Channel) (v : Value) (s : State),
    ∃ f : Frame, exec (.codecEncode r t v) s = .next { s with results := s.results ++ [.frame f] } ∧
      exec (.codecDecode f.pack) s =
        .next { s with results := s.results ++ [.bundle ⟨Claim.requestOfNumber (Claim.responseNumber r), t, v⟩] }

/-- 40_codec.md R103: a request frame decodes back to its fields (the spec's own inference). -/
def Obligations.RequestFrameDecodesBack : Prop :=
  ∀ (s : State) (q : Request) (t lo hi : Byte) (v : Value), v.toNat = lo.toNat + 256 * hi.toNat →
    exec (.codecDecode (Frame.pack ⟨q.code, t, lo, hi⟩)) s = .next { s with results := s.results ++ [.bundle ⟨q, t, v⟩] }

/-- 40_codec.md R130: a codec operation gives the same result in every state, and run before any other operation it changes
neither the effect nor the result of that operation. -/
def Obligations.CodecIsPure : Prop :=
  ∀ i : Instr, i.isCodec = true → ∃ r : Result, ∀ s : State,
    exec i s = .next { s with results := s.results ++ [r] } ∧
    ∀ (j : Instr) (t : State), exec j s = .next t →
      ∃ (r' : Result) (u : State), t.results = s.results ++ [r'] ∧
        exec j { s with results := s.results ++ [r] } = .next u ∧
        u = { t with results := s.results ++ [r, r'] }

/-! ### The timer -/

/-- 41_pulse_timer.md R140: the state machine, from either state. -/
def Obligations.TimerStatesAndTransitions : Prop :=
  State.reset.timer.running = false ∧
  ∀ s : State,
    (∃ t, exec .ptActivate s = .next t ∧ t.timer.running = true ∧ t.timer.lastCycleStart = s.timer.lastCycleStart) ∧
    (∃ t, exec .ptDeactivate s = .next t ∧ t.timer.running = false ∧ t.timer.lastCycleStart = s.timer.lastCycleStart) ∧
    (∀ now, ∃ t, exec (.ptIsFiring now) s = .next t ∧ t.timer.running = s.timer.running ∧
      (t.timer.lastCycleStart = s.timer.lastCycleStart ∨ (s.timer.running = true ∧ t.timer.lastCycleStart = now))) ∧
    (∀ i, (i = .ptGetPulseLength ∨ i = .ptGetFrequency ∨ (∃ v, i = .ptSetPulseLength v) ∨ ∃ v, i = .ptSetFrequency v) →
      ∃ t, exec i s = .next t ∧ t.timer.running = s.timer.running ∧ t.timer.lastCycleStart = s.timer.lastCycleStart)

/-- 41_pulse_timer.md R141. -/
def Obligations.ActivateKeepsTheAnchor : Prop :=
  ∀ s : State,
    exec .ptActivate s =
      .next { s with
        timer := ⟨true, s.timer.frequency, s.timer.pulseLength, s.timer.lastCycleStart⟩
        results := s.results ++ [.none] } ∧
    (s.timer.running = true → exec .ptActivate s = .next { s with results := s.results ++ [.none] })

/-- 41_pulse_timer.md R142: after it, nothing but `PT.ACTIVATE` leaves Idle, and every poll answers false (the spec's own
inference). -/
def Obligations.DeactivateHoldsUntilActivate : Prop :=
  (∀ s : State,
    exec .ptDeactivate s =
      .next { s with
        timer := ⟨false, s.timer.frequency, s.timer.pulseLength, s.timer.lastCycleStart⟩
        results := s.results ++ [.none] } ∧
    (s.timer.running = false → exec .ptDeactivate s = .next { s with results := s.results ++ [.none] })) ∧
  (∀ (s t : State) (i : Instr), s.timer.running = false → i ≠ .ptActivate → exec i s = .next t →
    t.timer.running = false ∧ ∀ now, i = .ptIsFiring now → t.results = s.results ++ [.bool false])

/-- 41_pulse_timer.md R143. -/
def Obligations.IsFiringFollowsItsSteps : Prop :=
  ∀ (s : State) (now : Timestamp),
    exec (.ptIsFiring now) s =
      .next { s with
        timer := Claim.polled s.timer now
        trace := s.trace ++ [.clockRead .timer now]
        results := s.results ++ [.bool (Claim.fires s.timer now)] }

/-- 41_pulse_timer.md R144, R145, and what the new length does at the next poll (the spec's own inference). -/
def Obligations.TimerPulseLengthReadAndWrite : Prop :=
  ∀ (s : State) (v : Span) (now : Timestamp),
    exec .ptGetPulseLength s = .next { s with results := s.results ++ [.word s.timer.pulseLength] } ∧
    exec .ptGetPulseLength State.reset = .next { State.reset with results := [.word Config.ptResetPulseLength] } ∧
    (∃ t, exec (.ptSetPulseLength v) s = .next t ∧
      t = { s with
        timer := ⟨s.timer.running, s.timer.frequency, v, s.timer.lastCycleStart⟩
        results := s.results ++ [.none] } ∧
      exec .ptGetPulseLength t = .next { t with results := s.results ++ [.none, .word v] } ∧
      ∃ u, exec (.ptIsFiring now) t = .next u ∧ u.results = s.results ++ [.none, .bool (Claim.fires t.timer now)] ∧
        (v = 0 → Claim.fires t.timer now = false) ∧
        (s.timer.running = true → s.timer.frequency.toNat < v.toNat → Claim.fires t.timer now = true))

/-- 41_pulse_timer.md R146, R147, and what the new frequency does at the next poll (the spec's own inference). -/
def Obligations.TimerFrequencyReadAndWrite : Prop :=
  ∀ (s : State) (v : Span) (now : Timestamp),
    exec .ptGetFrequency s = .next { s with results := s.results ++ [.word s.timer.frequency] } ∧
    exec .ptGetFrequency State.reset = .next { State.reset with results := [.word Config.ptResetFrequency] } ∧
    (∃ t, exec (.ptSetFrequency v) s = .next t ∧
      t = { s with
        timer := ⟨s.timer.running, v, s.timer.pulseLength, s.timer.lastCycleStart⟩
        results := s.results ++ [.none] } ∧
      exec .ptGetFrequency t = .next { t with results := s.results ++ [.none, .word v] } ∧
      ∃ u, exec (.ptIsFiring now) t = .next u ∧ u.results = s.results ++ [.none, .bool (Claim.fires t.timer now)] ∧
        (s.timer.running = true → v.toNat < Claim.elapsed now s.timer.lastCycleStart → u.timer.lastCycleStart = now) ∧
        (s.timer.running = true → v = 0 → 0 < s.timer.pulseLength.toNat → Claim.fires t.timer now = true))

/-- 41_pulse_timer.md R148: an Active timer polled at every time unit from its anchor, with `PL ≤ F` and `F + 1 < 2^TS_WIDTH`, gives a
wave of period exactly `F + 1` with `PL` units on, for any number of polls (the spec's own inference from R143). -/
def Obligations.UnitPollingGivesASquareWave : Prop :=
  ∀ (s : State) (n : Nat), s.timer.running = true →
    s.timer.pulseLength.toNat ≤ s.timer.frequency.toNat → s.timer.frequency.toNat + 1 < 2 ^ Config.tsWidth →
    s.pending = (List.range n).map (fun k => encode (.ptIsFiring (s.timer.lastCycleStart + BitVec.ofNat Config.tsWidth k))) →
    ∃ t : State, Host.Core.run core n s = .next t ∧
      t.results = s.results ++ (List.range n).map
        (fun k => .bool (decide (k % (s.timer.frequency.toNat + 1) < s.timer.pulseLength.toNat))) ∧
      t.timer.lastCycleStart =
        s.timer.lastCycleStart +
          BitVec.ofNat Config.tsWidth ((n - 1) / (s.timer.frequency.toNat + 1) * (s.timer.frequency.toNat + 1)) ∧
      t.pending = [] ∧ t.channels = s.channels

/-- 41_pulse_timer.md R148, sparser polling: a new cycle starts at a poll exactly when more than `F` units have passed since the
anchor, so the period is at least `F + 1` (the spec's own inference from R143). -/
def Obligations.SparsePollingStartsCyclesLate : Prop :=
  ∀ (s : State) (A T : Nat), s.timer.running = true → s.timer.lastCycleStart = BitVec.ofNat Config.tsWidth A → A ≤ T → T < A + 2 ^ Config.tsWidth →
    ∃ t : State, exec (.ptIsFiring (BitVec.ofNat Config.tsWidth T)) s = .next t ∧
      t.timer = { s.timer with
        lastCycleStart := BitVec.ofNat Config.tsWidth (if s.timer.frequency.toNat + 1 ≤ T - A then T else A) }

/-- 41_pulse_timer.md R149: after any poll while Active, the elapsed time is at most the frequency; an Idle timer's anchor ages
freely (the spec's own inference from R143). -/
def Obligations.ActivePollBoundsTheElapsedTime : Prop :=
  ∀ (s t : State) (now : Timestamp),
    (exec (.ptIsFiring now) s = .next t → s.timer.running = false → t.timer = s.timer) ∧
    (exec (.ptIsFiring now) s = .next t → s.timer.running = true →
      Claim.elapsed now t.timer.lastCycleStart ≤ t.timer.frequency.toNat) ∧
    (∀ (ch : Channel) (c : Controller),
      (exec (.ctlIsRunning ch now) s = .next t ∨ ∃ m, exec (.ctlStep ch now m) s = .next t ∧ ∃ b, s.channels[ch.toNat]? = some b ∧
        b.enabled = true) →
      t.channels[ch.toNat]? = some c → c.pulse.running = true →
      Claim.elapsed now c.pulse.lastCycleStart ≤ c.pulse.frequency.toNat)

/-- 41_pulse_timer.md R150, R151, R152 (the spec's own inferences from R143). -/
def Obligations.DegenerateLengthsAreAlwaysOrNever : Prop :=
  ∀ (s : State) (now : Timestamp),
    ∃ (t : State) (b : Bool), exec (.ptIsFiring now) s = .next t ∧ t.results = s.results ++ [.bool b] ∧
      (s.timer.pulseLength = 0 → b = false) ∧
      (s.timer.pulseLength = 0 → s.timer.running = true →
        s.timer.frequency.toNat < Claim.elapsed now s.timer.lastCycleStart → t.timer.lastCycleStart = now) ∧
      (s.timer.running = true → s.timer.frequency = 0 → s.timer.pulseLength ≠ 0 →
        b = true ∧ t.timer.lastCycleStart = now) ∧
      (s.timer.running = true → s.timer.frequency.toNat < s.timer.pulseLength.toNat → b = true)

/-- 41_pulse_timer.md R154: the first poll after a re-activation measures from the stale anchor, and what later polls answer (the
spec's own inference from R143). -/
def Obligations.ReactivationUsesTheStaleAnchor : Prop :=
  ∀ (s : State) (now : Timestamp) (e : Nat), s.timer.running = false → e = Claim.elapsed now s.timer.lastCycleStart →
    ∃ (t u : State) (b : Bool),
      exec .ptActivate s = .next t ∧ exec (.ptIsFiring now) t = .next u ∧ u.results = t.results ++ [.bool b] ∧
      (s.timer.frequency.toNat < e → u.timer.lastCycleStart = now ∧ (b = true ↔ 0 < s.timer.pulseLength.toNat)) ∧
      (e ≤ s.timer.frequency.toNat → e < s.timer.pulseLength.toNat →
        b = true ∧ u.timer.lastCycleStart = s.timer.lastCycleStart ∧
        ∀ d : Nat, e + d < 2 ^ Config.tsWidth → e + d ≤ s.timer.frequency.toNat →
          ∃ v, exec (.ptIsFiring (now + BitVec.ofNat Config.tsWidth d)) u = .next v ∧
            v.results = u.results ++ [.bool (decide (d < s.timer.pulseLength.toNat - e))]) ∧
      (s.timer.pulseLength.toNat ≤ e → e ≤ s.timer.frequency.toNat →
        b = false ∧ u.timer.lastCycleStart = s.timer.lastCycleStart ∧
        ∀ d : Nat, e + d < 2 ^ Config.tsWidth →
          ∃ v, exec (.ptIsFiring (now + BitVec.ofNat Config.tsWidth d)) u = .next v ∧
            v.results = u.results ++
              [.bool (decide (s.timer.frequency.toNat < e + d ∧ 0 < s.timer.pulseLength.toNat))])

/-- 41_pulse_timer.md R155: with true times `A` of the anchor, `P` of one poll and `T` of the next, polls at most `g` apart and
`F + g < 2^TS_WIDTH`, the answers are those of the true elapsed times, wherever the counter wraps (the spec's own inference from R149). -/
def Obligations.CounterWrapChangesNoAnswer : Prop :=
  ∀ (s : State) (A P T g : Nat), s.timer.running = true → s.timer.lastCycleStart = BitVec.ofNat Config.tsWidth A →
    A ≤ P → P < A + 2 ^ Config.tsWidth → P ≤ T → T ≤ P + g → s.timer.frequency.toNat + g < 2 ^ Config.tsWidth →
    ∃ (t u : State) (B C : Nat),
      B = (if s.timer.frequency.toNat < P - A then P else A) ∧ C = (if s.timer.frequency.toNat < T - B then T else B) ∧
      exec (.ptIsFiring (BitVec.ofNat Config.tsWidth P)) s = .next t ∧
      t.timer = { s.timer with lastCycleStart := BitVec.ofNat Config.tsWidth B } ∧
      t.results = s.results ++ [.bool (decide (P - B < s.timer.pulseLength.toNat))] ∧
      exec (.ptIsFiring (BitVec.ofNat Config.tsWidth T)) t = .next u ∧
      u.timer = { s.timer with lastCycleStart := BitVec.ofNat Config.tsWidth C } ∧
      u.results = t.results ++ [.bool (decide (T - C < s.timer.pulseLength.toNat))]

/-- 41_pulse_timer.md R156 (the spec's own inference from R143). -/
def Obligations.IdlePollIsFreeOfSideEffects : Prop :=
  ∀ (s : State) (now : Timestamp), s.timer.running = false →
    exec (.ptIsFiring now) s =
      .next { s with trace := s.trace ++ [.clockRead .timer now], results := s.results ++ [.bool false] }

/-- 70_reset_and_hazards.md R243: with polls `g` apart while Active, a cycle lasts at least `F + 1` and less than `F + 1 + g`
units, and an on-time that ends at a poll at least `PL` and less than `PL + g` (the spec's own inference from R143). -/
def Obligations.PollsQuantiseTheCycle : Prop :=
  ∀ (s t : State) (A P g : Nat), s.timer.running = true → s.timer.lastCycleStart = BitVec.ofNat Config.tsWidth A →
    A ≤ P → P - A ≤ s.timer.frequency.toNat → 0 < g → s.timer.frequency.toNat + g < 2 ^ Config.tsWidth →
    exec (.ptIsFiring (BitVec.ofNat Config.tsWidth (P + g))) s = .next t →
    (t.timer.lastCycleStart ≠ s.timer.lastCycleStart →
      s.timer.frequency.toNat + 1 ≤ P + g - A ∧ P + g - A < s.timer.frequency.toNat + 1 + g) ∧
    (P - A < s.timer.pulseLength.toNat → t.results = s.results ++ [.bool false] →
      s.timer.pulseLength.toNat ≤ P + g - A ∧ P + g - A < s.timer.pulseLength.toNat + g)

/-! ### The controller -/

/-- 42_controller.md R170, with the comparator of R171. The spec's own decisions in it: the zero extension of the comparison (D27;
log 19) and the order of the three events (D23; log 18). -/
def Obligations.ControllerStepFollowsItsSteps : Prop :=
  ∀ (s : State) (ch : Channel) (now : Timestamp) (m : Moisture) (c : Controller), s.channels[ch.toNat]? = some c →
    (c.enabled = false → exec (.ctlStep ch now m) s = .next { s with results := s.results ++ [.bool false] }) ∧
    (c.enabled = true → ∀ p : PulseTimer,
      p = ⟨decide (c.humidityThreshold.toNat < m.toNat), c.pulse.frequency, c.pulse.pulseLength, c.pulse.lastCycleStart⟩ →
      exec (.ctlStep ch now m) s =
        .next { s with
          channels := s.channels.set ch.toNat
            { c with
              pulse := Claim.polled p now
              pumpOut := if Claim.fires p now = true then .low else .high }
          trace := s.trace ++
            [.sensorRead ch m, .clockRead (.channel ch) now,
              .pumpWrite ch (if Claim.fires p now = true then .low else .high)]
          results := s.results ++ [.bool (Claim.fires p now)] })

/-- 00_scope.md R9, 41_pulse_timer.md R143, 42_controller.md R170: the poll and the enabled step for every `TS_WIDTH` and every
`MOIST_W`, which the spec keeps as parameters (decisions D8, D10; log 9, log 10). Where widths differ, the comparisons extend the narrower value
with zeros (decision D27; log 19). -/
def Obligations.PollAndStepHoldAtEveryWidth : Prop :=
  ∀ (ts ms : Nat) (now : BitVec ts) (m : BitVec ms) (c : ControllerOf ts) (p : PulseTimerOf ts),
    p.isFiring now = (Claim.polled p now, Claim.fires p now) ∧
    (p = ⟨decide (c.humidityThreshold.toNat < m.toNat), c.pulse.frequency, c.pulse.pulseLength, c.pulse.lastCycleStart⟩ →
      c.stepped now m =
        ({ c with pulse := Claim.polled p now, pumpOut := if Claim.fires p now = true then .low else .high },
          Claim.fires p now))

/-- 42_controller.md R173: the flag alone is written, and a channel disabled and enabled again stays off and Idle under
everything but its next `CTL.STEP`. -/
def Obligations.EnableHasNoOtherEffect : Prop :=
  (∀ (s : State) (ch : Channel) (c : Controller), s.channels[ch.toNat]? = some c →
    exec (.ctlEnable ch) s =
      .next { s with
        channels := s.channels.set ch.toNat { c with enabled := true }
        results := s.results ++ [.none] } ∧
    ∃ t u, exec (.ctlDisable ch) s = .next t ∧ exec (.ctlEnable ch) t = .next u ∧
      u.channels[ch.toNat]? =
        some { c with enabled := true, pumpOut := .high, pulse := { c.pulse with running := false } }) ∧
  (∀ (s t : State) (ch : Channel) (i : Instr) (c c' : Controller), (∀ now m, i ≠ .ctlStep ch now m) →
    exec i s = .next t → s.channels[ch.toNat]? = some c → t.channels[ch.toNat]? = some c' →
    c.pumpOut = .high → c.pulse.running = false → c'.pumpOut = .high ∧ c'.pulse.running = false)

/-- 42_controller.md R174. -/
def Obligations.DisableForcesThePumpOff : Prop :=
  ∀ (s : State) (ch : Channel) (c : Controller), s.channels[ch.toNat]? = some c →
    exec (.ctlDisable ch) s =
      .next { s with
        channels := s.channels.set ch.toNat
          { c with enabled := false, pumpOut := .high, pulse := { c.pulse with running := false } }
        trace := s.trace ++ [.pumpWrite ch .high]
        results := s.results ++ [.none] }

/-- 42_controller.md R175, R176. -/
def Obligations.ThresholdReadAndWrite : Prop :=
  ∀ (s : State) (ch : Channel) (c : Controller) (arg : Threshold), s.channels[ch.toNat]? = some c →
    exec (.ctlGetThreshold ch) s = .next { s with results := s.results ++ [.half c.humidityThreshold] } ∧
    (ch.toNat < Config.numChannels →
      exec (.ctlGetThreshold ch) State.reset = .next { State.reset with results := [.half 1000] }) ∧
    ∃ t, exec (.ctlSetThreshold ch arg) s = .next t ∧
      t = { s with
        channels := s.channels.set ch.toNat { c with humidityThreshold := arg }
        results := s.results ++ [.none] } ∧
      exec (.ctlGetThreshold ch) t = .next { t with results := s.results ++ [.none, .half arg] }

/-- 42_controller.md R177: one fresh read, enabled or not, and no register changes. -/
def Obligations.GetMoistureIsOneFreshRead : Prop :=
  ∀ (s : State) (ch : Channel) (m : Moisture) (c : Controller), s.channels[ch.toNat]? = some c →
    exec (.ctlGetMoisture ch m) s =
      .next { s with trace := s.trace ++ [.sensorRead ch m], results := s.results ++ [.moisture m] }

/-- 42_controller.md R178, R179; while the length is 0, every enabled step returns false and drives HIGH. -/
def Obligations.ControllerPulseLengthReadAndWrite : Prop :=
  ∀ (s : State) (ch : Channel) (c : Controller) (arg : Span), s.channels[ch.toNat]? = some c →
    exec (.ctlGetPulseLength ch) s = .next { s with results := s.results ++ [.word c.pulse.pulseLength] } ∧
    ∃ t, exec (.ctlSetPulseLength ch arg) s = .next t ∧
      t = { s with
        channels := s.channels.set ch.toNat
          { c with pulse := ⟨c.pulse.running, c.pulse.frequency, arg, c.pulse.lastCycleStart⟩ }
        results := s.results ++ [.none] } ∧
      exec (.ctlGetPulseLength ch) t = .next { t with results := s.results ++ [.none, .word arg] } ∧
      ∀ (u : State) (d : Controller) (now : Timestamp) (m : Moisture), u.channels[ch.toNat]? = some d → d.enabled = true →
        d.pulse.pulseLength = 0 → ∃ w, exec (.ctlStep ch now m) u = .next w ∧
          w.results = u.results ++ [.bool false] ∧ pumpWritesOf ch w.trace = pumpWritesOf ch u.trace ++ [.high]

/-- 42_controller.md R180, R181. -/
def Obligations.ControllerFrequencyReadAndWrite : Prop :=
  ∀ (s : State) (ch : Channel) (c : Controller) (arg : Span), s.channels[ch.toNat]? = some c →
    exec (.ctlGetFrequency ch) s = .next { s with results := s.results ++ [.word c.pulse.frequency] } ∧
    ∃ t, exec (.ctlSetFrequency ch arg) s = .next t ∧
      t = { s with
        channels := s.channels.set ch.toNat
          { c with pulse := ⟨c.pulse.running, arg, c.pulse.pulseLength, c.pulse.lastCycleStart⟩ }
        results := s.results ++ [.none] } ∧
      exec (.ctlGetFrequency ch) t = .next { t with results := s.results ++ [.none, .word arg] }

/-- 42_controller.md R182: a poll of the channel's timer that drives no pin and reads no sensor. -/
def Obligations.IsRunningPollsWithoutDriving : Prop :=
  ∀ (s : State) (ch : Channel) (now : Timestamp) (c : Controller), s.channels[ch.toNat]? = some c →
    exec (.ctlIsRunning ch now) s =
      .next { s with
        channels := s.channels.set ch.toNat { c with pulse := Claim.polled c.pulse now }
        trace := s.trace ++ [.clockRead (.channel ch) now]
        results := s.results ++ [.bool (Claim.fires c.pulse now)] } ∧
    (s.Inv → c.enabled = false → Claim.fires c.pulse now = false ∧ Claim.polled c.pulse now = c.pulse)

/-- 42_controller.md R185: an enabled step that returns `r` leaves the pump LOW if `r` and HIGH if not, and the level holds
through any run without another step or disable of that channel (the spec's own inference). -/
def Obligations.PumpHoldsItsLevelAfterAStep : Prop :=
  ∀ (s : State) (ch : Channel) (now : Timestamp) (m : Moisture) (c : Controller), s.channels[ch.toNat]? = some c →
    c.enabled = true →
    ∃ (t : State) (r : Bool) (level : Level), exec (.ctlStep ch now m) s = .next t ∧ t.results = s.results ++ [.bool r] ∧
      level = (if r = true then .low else .high) ∧ (t.channels[ch.toNat]?).map (·.pumpOut) = some level ∧
      ∀ (n : Nat) (u : State), (∀ q ∈ t.pending, ∀ i, decode q = .ok i → ¬ Claim.DrivesPump ch i) →
        Host.Core.run core n t = .next u →
        (u.channels[ch.toNat]?).map (·.pumpOut) = some level ∧ pumpWritesOf ch u.trace = pumpWritesOf ch t.trace

/-- 42_controller.md R186: after some enabled step, `CTL.IS_RUNNING` answers false while the pump is still LOW (the
spec's own inference). -/
def Obligations.IsRunningMayDisagreeWithThePump : Prop :=
  ∀ (s : State) (ch : Channel) (c : Controller), s.channels[ch.toNat]? = some c → c.enabled = true →
    c.humidityThreshold.toNat < 1500 → c.pulse.frequency = 5000 → c.pulse.pulseLength = 2000 → c.pulse.lastCycleStart = 0 →
    ∃ t u, exec (.ctlStep ch 100 1500) s = .next t ∧ t.results = s.results ++ [.bool true] ∧
      exec (.ctlIsRunning ch 3000) t = .next u ∧ u.results = t.results ++ [.bool false] ∧
      (u.channels[ch.toNat]?).map (·.pumpOut) = some .low

/-! ### Rules about every operation -/

/-- 60_exceptions.md R200, 42_controller.md R183: every operation, on any state and any operands, gives one next state and one
result, and only adds to the trace. A controller operation is one on a channel unit that exists (log 5). -/
def Obligations.EveryOperationCompletes : Prop :=
  ∀ (i : Instr) (s : State), (∀ ch, i.channel? = some ch → ch.toNat < s.channels.length) →
    ∃ (t : State) (r : Result) (es : List Event), exec i s = .next t ∧ t.results = s.results ++ [r] ∧
      t.trace = s.trace ++ es ∧ t.pending = s.pending

/-- An index that names no channel unit is refused at the boundary: the model's choice (log 5; 93_implementation_defined.md U12). -/
def Obligations.MissingChannelIsRefused : Prop :=
  ∀ (i : Instr) (s : State) (ch : Channel), i.channel? = some ch → s.channels.length ≤ ch.toNat →
    exec i s = .refused (.noSuchChannel ch)

/-- 10_state.md R39, R22: an operation writes the record of its own unit alone. -/
def Obligations.OperationsWriteTheirOwnUnit : Prop :=
  ∀ (i : Instr) (s t : State), exec i s = .next t →
    t.channels.length = s.channels.length ∧
    (∀ d : Channel, i.channel? ≠ some d → t.channels[d.toNat]? = s.channels[d.toNat]? ∧
      pumpWritesOf d t.trace = pumpWritesOf d s.trace) ∧
    ((∃ ch, i.channel? = some ch) ∨ i.isCodec = true → t.timer = s.timer) ∧
    (i.channel? = none → t.channels = s.channels)

/-- 10_state.md R39: what an operation on a channel does depends on that channel's record alone. -/
def Obligations.OperationsReadTheirOwnChannel : Prop :=
  ∀ (i : Instr) (ch : Channel) (s s' t : State), i.channel? = some ch →
    s.channels[ch.toNat]? = s'.channels[ch.toNat]? → exec i s = .next t →
    ∃ (t' : State) (r : Result) (es : List Event), exec i s' = .next t' ∧
      t'.channels[ch.toNat]? = t.channels[ch.toNat]? ∧
      t.results = s.results ++ [r] ∧ t'.results = s'.results ++ [r] ∧
      t.trace = s.trace ++ es ∧ t'.trace = s'.trace ++ es

/-- 10_state.md R31, 70_reset_and_hazards.md R240: an operation that changes a pump output or writes it is an enabled `CTL.STEP`
or a `CTL.DISABLE` of that channel. -/
def Obligations.OnlyStepAndDisableDriveThePump : Prop :=
  ∀ (i : Instr) (s t : State) (ch : Channel) (c c' : Controller), exec i s = .next t →
    s.channels[ch.toNat]? = some c → t.channels[ch.toNat]? = some c' →
    (c'.pumpOut ≠ c.pumpOut ∨ pumpWritesOf ch t.trace ≠ pumpWritesOf ch s.trace) →
    i = .ctlDisable ch ∨ (c.enabled = true ∧ ∃ now m, i = .ctlStep ch now m)

/-- 10_state.md R26: the anchor is written by a poll that starts a cycle, with the poll's `now`, and by nothing else. -/
def Obligations.OnlyPollsMoveTheAnchor : Prop :=
  ∀ (i : Instr) (s t : State), exec i s = .next t →
    (t.timer.lastCycleStart ≠ s.timer.lastCycleStart →
      ∃ now, i = .ptIsFiring now ∧ s.timer.running = true ∧ t.timer.lastCycleStart = now ∧
        s.timer.frequency.toNat < Claim.elapsed now s.timer.lastCycleStart) ∧
    (∀ (ch : Channel) (c c' : Controller), s.channels[ch.toNat]? = some c → t.channels[ch.toNat]? = some c' →
      c'.pulse.lastCycleStart ≠ c.pulse.lastCycleStart →
      ∃ now, (i = .ctlIsRunning ch now ∨ ∃ m, i = .ctlStep ch now m) ∧ c'.pulse.running = true ∧
        c'.pulse.lastCycleStart = now ∧ c.pulse.frequency.toNat < Claim.elapsed now c.pulse.lastCycleStart)

/-- 10_state.md R23, R29, R34: which operations write the two flags of a channel and the flag of the standalone timer. -/
def Obligations.FlagsHaveTheirWritersOnly : Prop :=
  ∀ (i : Instr) (s t : State), exec i s = .next t →
    (t.timer.running ≠ s.timer.running → i = .ptActivate ∨ i = .ptDeactivate) ∧
    (∀ (ch : Channel) (c c' : Controller), s.channels[ch.toNat]? = some c → t.channels[ch.toNat]? = some c' →
      (c'.enabled ≠ c.enabled → (i = .ctlEnable ch ∧ c'.enabled = true) ∨ (i = .ctlDisable ch ∧ c'.enabled = false)) ∧
      (c'.pulse.running ≠ c.pulse.running →
        (i = .ctlDisable ch ∧ c'.pulse.running = false) ∨ (c.enabled = true ∧ ∃ now m, i = .ctlStep ch now m)))

/-- 10_state.md R24, R25, R28: the configuration registers keep their values under everything but their set operations. -/
def Obligations.ConfigurationHasItsWritersOnly : Prop :=
  ∀ (i : Instr) (s t : State), exec i s = .next t →
    (t.timer.frequency ≠ s.timer.frequency → i = .ptSetFrequency t.timer.frequency) ∧
    (t.timer.pulseLength ≠ s.timer.pulseLength → i = .ptSetPulseLength t.timer.pulseLength) ∧
    (∀ (ch : Channel) (c c' : Controller), s.channels[ch.toNat]? = some c → t.channels[ch.toNat]? = some c' →
      (c'.humidityThreshold ≠ c.humidityThreshold → i = .ctlSetThreshold ch c'.humidityThreshold) ∧
      (c'.pulse.frequency ≠ c.pulse.frequency → i = .ctlSetFrequency ch c'.pulse.frequency) ∧
      (c'.pulse.pulseLength ≠ c.pulse.pulseLength → i = .ctlSetPulseLength ch c'.pulse.pulseLength))

/-- 60_exceptions.md R212, 42_controller.md R172: which operations read the clock and the sensor, how often, and in what order. -/
def Obligations.InputsAreReadByTheirOperationsOnly : Prop :=
  ∀ (i : Instr) (s t : State), exec i s = .next t →
    ∃ es : List Event, t.trace = s.trace ++ es ∧
      (clockReadsOf es = [] ∨
        (∃ now, i = .ptIsFiring now ∧ clockReadsOf es = [(.timer, now)]) ∨
        (∃ ch now, i = .ctlIsRunning ch now ∧ clockReadsOf es = [(.channel ch, now)]) ∨
        (∃ ch now m c, i = .ctlStep ch now m ∧ s.channels[ch.toNat]? = some c ∧ c.enabled = true ∧
          clockReadsOf es = [(.channel ch, now)])) ∧
      (sensorReadsOf es = [] ∨
        (∃ ch m, i = .ctlGetMoisture ch m ∧ sensorReadsOf es = [(ch, m)]) ∨
        (∃ ch now m c, i = .ctlStep ch now m ∧ s.channels[ch.toNat]? = some c ∧ c.enabled = true ∧
          sensorReadsOf es = [(ch, m)])) ∧
      (∀ now, i = .ptIsFiring now → clockReadsOf es = [(.timer, now)]) ∧
      (∀ ch now, i = .ctlIsRunning ch now → clockReadsOf es = [(.channel ch, now)]) ∧
      (∀ ch m, i = .ctlGetMoisture ch m → sensorReadsOf es = [(ch, m)]) ∧
      (∀ ch now m c, i = .ctlStep ch now m → s.channels[ch.toNat]? = some c → c.enabled = true →
        ∃ level, es = [.sensorRead ch m, .clockRead (.channel ch) now, .pumpWrite ch level])

/-- 20_memory.md R57: the pure reads and the idempotent writes. A second equal write, and a second disable, leaves every register
as the first left it. -/
def Obligations.WritesAreIdempotent : Prop :=
  ∀ (s t : State) (i : Instr),
    (i = .ptActivate ∨ i = .ptDeactivate ∨ (∃ v, i = .ptSetPulseLength v) ∨ (∃ v, i = .ptSetFrequency v) ∨
      ∃ ch, i = .ctlEnable ch ∨ i = .ctlDisable ch ∨ (∃ v, i = .ctlSetThreshold ch v) ∨ (∃ v, i = .ctlSetPulseLength ch v) ∨
        ∃ v, i = .ctlSetFrequency ch v) →
    exec i s = .next t →
    ∃ u, exec i t = .next u ∧ u.channels = t.channels ∧ u.timer = t.timer ∧
      (∀ ch, i = .ctlDisable ch → u.trace = t.trace ++ [.pumpWrite ch .high]) ∧
      ((∀ ch, i ≠ .ctlDisable ch) → u.trace = t.trace)

/-- 41_pulse_timer.md R153, 60_exceptions.md R220, 70_reset_and_hazards.md R233: while no operation is issued the state does not
change, however many steps pass, and after reset the block waits (log 1). -/
def Obligations.NothingAdvancesWithoutAnOperation : Prop :=
  (∀ (s : State) (n : Nat), s.pending = [] → Host.Core.run core n s = .next s) ∧
  (∀ n : Nat, Host.Core.run core n State.reset = .next State.reset)

/-- 20_memory.md R60: operations take effect one at a time in the order issued (log 1); each adds one result, and what the trace and the
results hold is never taken back. -/
def Obligations.OperationsRunInTheOrderIssued : Prop :=
  ∀ (operations : List Instr) (s : State) (rest : List Issue), (∀ i ∈ operations, i.wf = true) →
    (∀ i ∈ operations, ∀ ch, i.channel? = some ch → ch.toNat < s.channels.length) →
    s.pending = operations.map encode ++ rest →
    ∃ t : State, Host.Core.run core operations.length s = .next t ∧ t.pending = rest ∧
      t.results.length = s.results.length + operations.length ∧
      s.results <+: t.results ∧ s.trace <+: t.trace ∧
      ∀ (first last : List Instr), operations = first ++ last →
        ∃ u : State, Host.Core.run core first.length s = .next u ∧ u.pending = last.map encode ++ rest ∧
          Host.Core.run core last.length u = .next t
end

