-- ==== Sys2Proof/Laws/Codec.lean ====
section
/-! SUPPORT. Bytes and words: taking apart and putting together are inverse (spec/30_encoding.md R71), and the code maps. -/

namespace Sys2Proof

/-- A 16-bit value is its low byte and 256 times its high byte (R50). -/
theorem join16_toNat (lo hi : Byte) : (join16 lo hi).toNat = lo.toNat + 256 * hi.toNat := by
  have hl := lo.isLt
  have hh := hi.isLt
  have e : lo.toNat ||| hi.toNat <<< 8 = lo.toNat + 256 * hi.toNat := by
    rw [Nat.or_comm, ← Nat.shiftLeft_add_eq_or_of_lt hl, Nat.shiftLeft_eq]; omega
  have m : hi.toNat <<< 8 % 2 ^ 16 = hi.toNat <<< 8 := by
    rw [Nat.shiftLeft_eq]; omega
  simp only [join16, BitVec.toNat_or, BitVec.toNat_setWidth, BitVec.toNat_shiftLeft]
  rw [Nat.mod_eq_of_lt (by omega : lo.toNat < 2 ^ 16), Nat.mod_eq_of_lt (by omega : hi.toNat < 2 ^ 16), m, e]

/-- A packed word as a number (R71). -/
theorem join32_toNat (b0 b1 b2 b3 : Byte) :
    (join32 b0 b1 b2 b3).toNat = b0.toNat + 256 * b1.toNat + 65536 * b2.toNat + 16777216 * b3.toNat := by
  have h0 := b0.isLt
  have h1 := b1.isLt
  have h2 := b2.isLt
  have h3 := b3.isLt
  have e1 : b0.toNat ||| b1.toNat <<< 8 = b0.toNat + 256 * b1.toNat := by
    rw [Nat.or_comm, ← Nat.shiftLeft_add_eq_or_of_lt h0, Nat.shiftLeft_eq]; omega
  have e2 : (b0.toNat + 256 * b1.toNat) ||| b2.toNat <<< 16 = b0.toNat + 256 * b1.toNat + 65536 * b2.toNat := by
    rw [Nat.or_comm, ← Nat.shiftLeft_add_eq_or_of_lt (by omega), Nat.shiftLeft_eq]; omega
  have e3 : (b0.toNat + 256 * b1.toNat + 65536 * b2.toNat) ||| b3.toNat <<< 24 =
      b0.toNat + 256 * b1.toNat + 65536 * b2.toNat + 16777216 * b3.toNat := by
    rw [Nat.or_comm, ← Nat.shiftLeft_add_eq_or_of_lt (by omega), Nat.shiftLeft_eq]; omega
  have s1 : b1.toNat <<< 8 % 2 ^ 32 = b1.toNat <<< 8 := by rw [Nat.shiftLeft_eq]; omega
  have s2 : b2.toNat <<< 16 % 2 ^ 32 = b2.toNat <<< 16 := by rw [Nat.shiftLeft_eq]; omega
  have s3 : b3.toNat <<< 24 % 2 ^ 32 = b3.toNat <<< 24 := by rw [Nat.shiftLeft_eq]; omega
  simp only [join32, BitVec.toNat_or, BitVec.toNat_setWidth, BitVec.toNat_shiftLeft]
  rw [Nat.mod_eq_of_lt (by omega : b0.toNat < 2 ^ 32), Nat.mod_eq_of_lt (by omega : b1.toNat < 2 ^ 32),
    Nat.mod_eq_of_lt (by omega : b2.toNat < 2 ^ 32), Nat.mod_eq_of_lt (by omega : b3.toNat < 2 ^ 32),
    s1, s2, s3, e1, e2, e3]

/-- A field of a word as a number (00_scope.md R11). -/
theorem extract8_toNat {w : Nat} (v : BitVec w) (k : Nat) : (v.extractLsb' k 8).toNat = v.toNat / 2 ^ k % 256 := by
  simp [BitVec.extractLsb'_toNat, Nat.shiftRight_eq_div_pow]

/-- The bytes of a 16-bit value give it back. -/
@[simp] theorem join16_bytes (v : BitVec 16) : join16 (v.extractLsb' 0 8) (v.extractLsb' 8 8) = v := by
  apply BitVec.eq_of_toNat_eq
  have hv := v.isLt
  rw [join16_toNat, extract8_toNat, extract8_toNat]
  omega

/-- The bytes of a 32-bit value give it back. -/
@[simp] theorem join32_bytes (w : BitVec 32) :
    join32 (w.extractLsb' 0 8) (w.extractLsb' 8 8) (w.extractLsb' 16 8) (w.extractLsb' 24 8) = w := by
  apply BitVec.eq_of_toNat_eq
  have hw := w.isLt
  rw [join32_toNat, extract8_toNat, extract8_toNat, extract8_toNat, extract8_toNat]
  omega

/-- A 16-bit value put together gives its low byte. -/
theorem join16_lo (lo hi : Byte) : (join16 lo hi).extractLsb' 0 8 = lo := by
  apply BitVec.eq_of_toNat_eq
  have hl := lo.isLt
  rw [extract8_toNat, join16_toNat]
  omega

/-- A 16-bit value put together gives its high byte. -/
theorem join16_hi (lo hi : Byte) : (join16 lo hi).extractLsb' 8 8 = hi := by
  apply BitVec.eq_of_toNat_eq
  have hl := lo.isLt
  have hh := hi.isLt
  rw [extract8_toNat, join16_toNat]
  omega

/-- A 32-bit value put together gives its four bytes. -/
theorem join32_byte (b0 b1 b2 b3 : Byte) :
    (join32 b0 b1 b2 b3).extractLsb' 0 8 = b0 ∧ (join32 b0 b1 b2 b3).extractLsb' 8 8 = b1 ∧
      (join32 b0 b1 b2 b3).extractLsb' 16 8 = b2 ∧ (join32 b0 b1 b2 b3).extractLsb' 24 8 = b3 := by
  have h0 := b0.isLt
  have h1 := b1.isLt
  have h2 := b2.isLt
  have h3 := b3.isLt
  refine ⟨?_, ?_, ?_, ?_⟩ <;> apply BitVec.eq_of_toNat_eq <;> rw [extract8_toNat, join32_toNat] <;> omega

/-- The number of two stretches of bytes. -/
theorem natOfBytes_append (a b : List Byte) : natOfBytes (a ++ b) = natOfBytes a + 2 ^ (8 * a.length) * natOfBytes b := by
  induction a with
  | nil => simp [natOfBytes]
  | cons x a ih =>
    simp only [List.cons_append, natOfBytes, ih, List.length_cons, Nat.mul_add, Nat.pow_add, Nat.mul_one]
    ring

/-- Some bytes hold a number below 2 to the power of their bits. -/
theorem natOfBytes_lt (bs : List Byte) : natOfBytes bs < 2 ^ (8 * bs.length) := by
  induction bs with
  | nil => simp [natOfBytes]
  | cons b bs ih =>
    have hb := b.isLt
    simp only [natOfBytes, List.length_cons, Nat.mul_add, Nat.pow_add, Nat.mul_one]
    omega

/-- As many bytes with the same number are the same bytes. -/
theorem natOfBytes_inj {a b : List Byte} (hl : a.length = b.length) (h : natOfBytes a = natOfBytes b) : a = b := by
  induction a generalizing b with
  | nil => exact (List.length_eq_zero_iff.1 hl.symm).symm
  | cons x a ih =>
    cases b with
    | nil => cases hl
    | cons y b =>
      have hx := x.isLt
      have hy := y.isLt
      simp only [natOfBytes, List.length_cons, Nat.add_right_cancel_iff] at h hl
      rw [BitVec.eq_of_toNat_eq (by omega : x.toNat = y.toNat), ih hl (by omega)]

/-- There are as many bytes as the width needs. -/
@[simp] theorem bytesOf_length {w : Nat} (v : BitVec w) : (bytesOf v).length = byteCount w := by simp [bytesOf]

/-- The bytes of a value hold it as a number. -/
@[simp] theorem natOfBytes_bytesOf {w : Nat} (v : BitVec w) : natOfBytes (bytesOf v) = v.toNat := by
  have key : ∀ n, natOfBytes ((List.range n).map fun k => v.extractLsb' (8 * k) 8) = v.toNat % 2 ^ (8 * n) := by
    intro n
    induction n with
    | zero => simp [natOfBytes, Nat.mod_one]
    | succ n ih =>
      rw [List.range_succ, List.map_append, natOfBytes_append, ih, Nat.mul_add, Nat.pow_add, Nat.mod_mul]
      simp [natOfBytes, Nat.shiftRight_eq_div_pow]
  rw [bytesOf, key, Nat.mod_eq_of_lt (Nat.lt_of_lt_of_le v.isLt (Nat.pow_le_pow_right (by decide) _))]
  simp only [byteCount]
  omega

/-- Reading bytes gives a value exactly when they are its bytes. -/
theorem readBytes_eq_some {w : Nat} {bs : List Byte} {v : BitVec w} : readBytes w bs = some v ↔ bs = bytesOf v := by
  unfold readBytes
  constructor
  · intro h
    split at h
    · next hb =>
      injection h with h
      subst h
      exact natOfBytes_inj (by simp [hb.1]) (by simp [Nat.mod_eq_of_lt hb.2])
    · cases h
  · rintro rfl
    simp [v.isLt]

/-- The bytes of a value give it back. -/
@[simp] theorem readBytes_bytesOf {w : Nat} (v : BitVec w) : readBytes w (bytesOf v) = some v := readBytes_eq_some.2 rfl

/-- At a width of whole bytes, reading fails exactly on another number of bytes. -/
theorem readBytes_eq_none {w : Nat} (hw : 8 * byteCount w = w) {bs : List Byte} :
    readBytes w bs = none ↔ bs.length ≠ byteCount w := by
  unfold readBytes
  have h := natOfBytes_lt bs
  constructor
  · intro hn hl
    rw [hl, hw] at h
    simp [hl, h] at hn
  · intro hl
    simp [hl]

/-- An operation with one operand is decoded exactly from the bytes of that operand. -/
theorem operands1_eq_ok {w : Nat} {mk : BitVec w → Instr} {bs : List Byte} {i : Instr} :
    operands1 mk bs = .ok i ↔ ∃ a, bs = bytesOf a ∧ mk a = i := by
  unfold operands1
  cases h : readBytes w bs with
  | some a => simp [readBytes_eq_some.1 h, ← readBytes_eq_some]
  | none => simp [← readBytes_eq_some, h]

/-- An operation with two operands is decoded exactly from the bytes of both, the first operand's first. -/
theorem operands2_eq_ok {v w : Nat} {mk : BitVec v → BitVec w → Instr} {bs : List Byte} {i : Instr} :
    operands2 mk bs = .ok i ↔ ∃ a b, bs = bytesOf a ++ bytesOf b ∧ mk a b = i := by
  unfold operands2
  constructor
  · intro h
    split at h
    · next a b ha hb =>
      injection h with h
      exact ⟨a, b, by rw [← readBytes_eq_some.1 ha, ← readBytes_eq_some.1 hb, List.take_append_drop], h⟩
    · cases h
  · rintro ⟨a, b, rfl, rfl⟩
    rw [List.take_left' (bytesOf_length a), List.drop_left' (bytesOf_length a), readBytes_bytesOf, readBytes_bytesOf]

/-- Operand bytes are refused, at a width of whole bytes, exactly when they are too few or too many. -/
theorem operands1_eq_error {w : Nat} (hw : 8 * byteCount w = w) {mk : BitVec w → Instr} {bs : List Byte} :
    operands1 mk bs = .error (.packetNotWhole .opSel) ↔ bs.length ≠ byteCount w := by
  rw [← readBytes_eq_none hw]
  unfold operands1
  cases readBytes w bs <;> simp

/-- The bytes of two operands are refused, at widths of whole bytes, exactly when they are too few or too many. -/
theorem operands2_eq_error {v w : Nat} (hv : 8 * byteCount v = v) (hw : 8 * byteCount w = w) {mk : BitVec v → BitVec w → Instr}
    {bs : List Byte} :
    operands2 mk bs = .error (.packetNotWhole .opSel) ↔ bs.length ≠ byteCount v + byteCount w := by
  unfold operands2
  cases ha : readBytes v (bs.take (byteCount v)) with
  | none =>
    have := (readBytes_eq_none hv).1 ha
    rw [List.length_take] at this
    simp only [true_iff]
    omega
  | some a =>
    have la := congrArg List.length (readBytes_eq_some.1 ha)
    rw [List.length_take, bytesOf_length] at la
    cases hb : readBytes w (bs.drop (byteCount v)) with
    | none =>
      have := (readBytes_eq_none hw).1 hb
      rw [List.length_drop] at this
      simp only [true_iff]
      omega
    | some b =>
      have lb := congrArg List.length (readBytes_eq_some.1 hb)
      rw [List.length_drop, bytesOf_length] at lb
      simp only [reduceCtorEq, false_iff]
      omega

/-- A number is cut into as many bytes as asked for. -/
@[simp] theorem bytesOfNat_length (n w : Nat) : (bytesOfNat n w).length = n := by simp [bytesOfNat]

/-- The first byte of a number is its value modulo 256. -/
theorem bytesOfNat_succ (n w : Nat) : bytesOfNat (n + 1) w = BitVec.ofNat 8 w :: bytesOfNat n (w / 256) := by
  simp only [bytesOfNat, List.range_succ_eq_map, List.map_cons, List.map_map, Nat.mul_zero, Nat.shiftRight_zero]
  congr 1
  apply List.map_congr_left
  intro k _
  show BitVec.ofNat 8 (w >>> (8 * (k + 1))) = BitVec.ofNat 8 ((w / 256) >>> (8 * k))
  rw [Nat.mul_succ, Nat.add_comm, Nat.shiftRight_add, Nat.shiftRight_eq_div_pow w 8]

/-- The code of a response names it (R75). -/
@[simp] theorem Response.ofCode_code (r : Response) : Response.ofCode r.code = some r := by cases r <;> rfl

/-- A code byte above 0x0A names no request (R74). -/
theorem Request.ofCode_unnamed {code : Byte} (h : unnamedRequestCode code = true) : Request.ofCode code = .unknown := by
  have h' : 10 < code.toNat := by simpa [unnamedRequestCode] using h
  unfold Request.ofCode
  split <;> first | rfl | omega

/-- A code byte above 0x0A is a word of the row REQ_UNKNOWN (R115). -/
theorem requestRow_unnamed {code : Byte} (h : unnamedRequestCode code = true) (t : Channel) (v : Value) :
    requestRow code t v = .reqUnknown code t v := by
  have h' : 10 < code.toNat := by simpa [unnamedRequestCode] using h
  unfold requestRow
  split <;> first | rfl | omega

namespace Machine

/-- The two masked bytes of a value are its bits 7:0 and 15:8 (R73). -/
theorem insertFields_value (code : Byte) (t : Channel) (v : Value) :
    (insertFields code t v).b2 = v.extractLsb' 0 8 ∧ (insertFields code t v).b3 = v.extractLsb' 8 8 := by
  constructor <;> ext k hk <;> interval_cases k <;> simp [insertFields, BitVec.getElem_and]

/-- `DECODE` of a request frame gives its fields back (40_codec.md R103). -/
theorem decodeWord_requestWord (code : Byte) (t : Channel) (v : Value) :
    decodeWord (requestWord code t v) = ⟨Request.ofCode code, t, v⟩ := by
  obtain ⟨h2, h3⟩ := insertFields_value code t v
  obtain ⟨j0, j1, j2, j3⟩ := join32_byte code t (v.extractLsb' 0 8) (v.extractLsb' 8 8)
  have hp : requestWord code t v = join32 code t (v.extractLsb' 0 8) (v.extractLsb' 8 8) := by
    simp only [requestWord, Frame.pack, h2, h3]; rfl
  have hv : valueField (requestWord code t v) = join16 (v.extractLsb' 0 8) (v.extractLsb' 8 8) := by
    rw [hp, valueField, j2, j3]; rfl
  simp only [decodeWord, codeField, targetField, hv, join16_bytes]
  rw [hp, j0, j1]

end Machine

end Sys2Proof
end

