-- ==== Sys2Proof/Laws/State.lean ====
section
/-! SUPPORT. What each update of State leaves and changes, one lemma per field. -/

namespace Sys2Proof.Machine

variable (s : State) (es : List Event) (r : Result) (ch d : Channel) (c : Controller) (p : PulseTimer)

@[simp] theorem State.emit_channels : (s.emit es).channels = s.channels := rfl
@[simp] theorem State.emit_timer : (s.emit es).timer = s.timer := rfl
@[simp] theorem State.emit_trace : (s.emit es).trace = s.trace ++ es := rfl
@[simp] theorem State.emit_results : (s.emit es).results = s.results := rfl
@[simp] theorem State.emit_pending : (s.emit es).pending = s.pending := rfl

@[simp] theorem State.answer_channels : (s.answer r).channels = s.channels := rfl
@[simp] theorem State.answer_timer : (s.answer r).timer = s.timer := rfl
@[simp] theorem State.answer_trace : (s.answer r).trace = s.trace := rfl
@[simp] theorem State.answer_results : (s.answer r).results = s.results ++ [r] := rfl
@[simp] theorem State.answer_pending : (s.answer r).pending = s.pending := rfl

@[simp] theorem State.setChannel_channels : (s.setChannel ch c).channels = s.channels.set ch.toNat c := rfl
@[simp] theorem State.setChannel_timer : (s.setChannel ch c).timer = s.timer := rfl
@[simp] theorem State.setChannel_trace : (s.setChannel ch c).trace = s.trace := rfl
@[simp] theorem State.setChannel_results : (s.setChannel ch c).results = s.results := rfl
@[simp] theorem State.setChannel_pending : (s.setChannel ch c).pending = s.pending := rfl

@[simp] theorem State.setTimer_channels : (s.setTimer p).channels = s.channels := rfl
@[simp] theorem State.setTimer_timer : (s.setTimer p).timer = p := rfl
@[simp] theorem State.setTimer_trace : (s.setTimer p).trace = s.trace := rfl
@[simp] theorem State.setTimer_results : (s.setTimer p).results = s.results := rfl
@[simp] theorem State.setTimer_pending : (s.setTimer p).pending = s.pending := rfl

@[simp] theorem State.withFetchWord_channels (n w : Nat) : (s.withFetchWord n w).channels = s.channels := rfl
@[simp] theorem State.withFetchWord_timer (n w : Nat) : (s.withFetchWord n w).timer = s.timer := rfl
@[simp] theorem State.withFetchWord_trace (n w : Nat) : (s.withFetchWord n w).trace = s.trace := rfl
@[simp] theorem State.withFetchWord_results (n w : Nat) : (s.withFetchWord n w).results = s.results := rfl
@[simp] theorem State.withFetchWord_pending (n w : Nat) :
    (s.withFetchWord n w).pending = tableIssue n w :: s.pending := rfl

/-- Writing back the record a channel already has changes nothing. -/
theorem State.setChannel_self {s : State} {ch : Channel} {c : Controller} (h : s.channels[ch.toNat]? = some c) :
    s.setChannel ch c = s := by
  obtain ⟨hlt, hc⟩ := List.getElem?_eq_some_iff.mp h
  simp [State.setChannel, ← hc]

/-- The channel written holds the new record. -/
theorem State.setChannel_same {s : State} {ch : Channel} {c c' : Controller} (h : s.channels[ch.toNat]? = some c) :
    (s.setChannel ch c').channels[ch.toNat]? = some c' := by
  obtain ⟨hlt, -⟩ := List.getElem?_eq_some_iff.mp h
  simp [hlt]

/-- Every other channel keeps its record. -/
theorem State.setChannel_other {s : State} {ch d : Channel} {c : Controller} (h : d ≠ ch) :
    (s.setChannel ch c).channels[d.toNat]? = s.channels[d.toNat]? := by
  have hne : ch.toNat ≠ d.toNat := fun e => h (BitVec.eq_of_toNat_eq e.symm)
  simp [hne]

end Sys2Proof.Machine
end

