-- ==== Sys2Proof/Laws/Ops.lean ====
section
/-! SUPPORT. Everything the shared operations can do, and which of them each instruction is. -/

namespace Sys2Proof.Machine

/-- An operation on a channel unit that exists. -/
theorem onChannel_of_some {s : State} {ch : Channel} {c : Controller} (op : Controller → Reply Controller)
    (h : s.channels[ch.toNat]? = some c) :
    onChannel ch op s = .next (((s.setChannel ch (op c).unit).emit (op c).events).answer (op c).result) := by
  simp [onChannel, h]

/-- An operation on an index that names no channel unit. -/
theorem onChannel_of_none {s : State} {ch : Channel} (op : Controller → Reply Controller)
    (h : s.channels[ch.toNat]? = none) : onChannel ch op s = .refused (.noSuchChannel ch) := by
  simp [onChannel, h]

/-- If an operation on a channel answers next, that channel exists and the next state is the recorded reply. -/
theorem onChannel_next {s t : State} {ch : Channel} {op : Controller → Reply Controller}
    (h : onChannel ch op s = .next t) :
    ∃ c, s.channels[ch.toNat]? = some c ∧
      t = ((s.setChannel ch (op c).unit).emit (op c).events).answer (op c).result := by
  cases hc : s.channels[ch.toNat]? with
  | none => simp [onChannel, hc] at h
  | some c => exact ⟨c, rfl, by simpa [onChannel, hc] using h.symm⟩

/-- If an operation on the timer answers next, the next state is the recorded reply. -/
theorem onTimer_next {s t : State} {op : PulseTimer → Reply PulseTimer} (h : onTimer op s = .next t) :
    t = ((s.setTimer (op s.timer).unit).emit (op s.timer).events).answer (op s.timer).result := by
  simpa [onTimer] using h.symm

/-- If a codec operation answers next, the next state has one more result and nothing else. -/
theorem onCodec_next {s t : State} {r : Result} (h : onCodec r s = .next t) : t = s.answer r := by
  simpa [onCodec] using h.symm

/-- A controller operation is one operation on its channel unit. -/
theorem exec_onChannel {i : Instr} {ch : Channel} (h : i.channel? = some ch) :
    ∃ op, ∀ s, exec i s = onChannel ch op s := by
  cases i <;> simp only [Instr.channel?, Option.some.injEq, reduceCtorEq] at h <;> subst h <;>
    exact ⟨_, fun _ => rfl⟩

/-- A timer operation is one operation on the standalone timer. -/
theorem exec_onTimer {i : Instr} (h : i.channel? = none) (hc : i.isCodec = false) :
    ∃ op, ∀ s, exec i s = onTimer op s := by
  cases i <;> simp only [Instr.channel?, Instr.isCodec, reduceCtorEq] at h hc
  case ptActivate => exact ⟨_, execPtActivate.eq_1⟩
  case ptDeactivate => exact ⟨_, execPtDeactivate.eq_1⟩
  case ptIsFiring now => exact ⟨_, execPtIsFiring.eq_1 now⟩
  case ptGetPulseLength => exact ⟨_, execPtGetPulseLength.eq_1⟩
  case ptSetPulseLength arg => exact ⟨_, execPtSetPulseLength.eq_1 arg⟩
  case ptGetFrequency => exact ⟨_, execPtGetFrequency.eq_1⟩
  case ptSetFrequency arg => exact ⟨_, execPtSetFrequency.eq_1 arg⟩

/-- A codec instruction is one codec operation. -/
theorem exec_onCodec {i : Instr} (h : i.isCodec = true) : ∃ r, ∀ s, exec i s = onCodec r s := by
  cases i <;> simp only [Instr.isCodec, reduceCtorEq] at h <;> exact ⟨_, fun _ => rfl⟩

/-- Everything `exec` can do when it answers next: the recorded reply of one operation on the instruction's channel unit, or on the
standalone timer, or one more codec result. -/
theorem exec_next_cases {i : Instr} {s t : State} (h : exec i s = .next t) :
    (∃ ch op c, i.channel? = some ch ∧ (∀ s, exec i s = onChannel ch op s) ∧ s.channels[ch.toNat]? = some c ∧
      t = ((s.setChannel ch (op c).unit).emit (op c).events).answer (op c).result) ∨
    (∃ op, i.channel? = none ∧ i.isCodec = false ∧ (∀ s, exec i s = onTimer op s) ∧
      t = ((s.setTimer (op s.timer).unit).emit (op s.timer).events).answer (op s.timer).result) ∨
    (∃ r, i.channel? = none ∧ i.isCodec = true ∧ (∀ s, exec i s = onCodec r s) ∧ t = s.answer r) := by
  cases hch : i.channel? with
  | some ch =>
    obtain ⟨op, ho⟩ := exec_onChannel hch
    obtain ⟨c, hc, ht⟩ := onChannel_next ((ho s).symm.trans h)
    exact .inl ⟨ch, op, c, rfl, ho, hc, ht⟩
  | none =>
    cases hk : i.isCodec with
    | true =>
      obtain ⟨r, ho⟩ := exec_onCodec hk
      exact .inr (.inr ⟨r, rfl, rfl, ho, onCodec_next ((ho s).symm.trans h)⟩)
    | false =>
      obtain ⟨op, ho⟩ := exec_onTimer hch hk
      exact .inr (.inl ⟨op, rfl, rfl, ho, onTimer_next ((ho s).symm.trans h)⟩)

/-- Two operations that act alike on every state act alike on every record, so an instruction's operation is known from `exec`. -/
theorem onChannel_inj {ch : Channel} {op op' : Controller → Reply Controller}
    (h : ∀ s, onChannel ch op s = onChannel ch op' s) : op = op' := by
  funext c
  have hc : (List.replicate (ch.toNat + 1) c)[ch.toNat]? = some c := by simp
  have hx := h { channels := List.replicate (ch.toNat + 1) c, timer := c.pulse, trace := [], results := [], pending := [] }
  rw [onChannel_of_some _ hc, onChannel_of_some _ hc] at hx
  injection hx with hx
  have hu := congrArg (fun s : State => s.channels[ch.toNat]?) hx
  have he := congrArg State.trace hx
  have hr := congrArg State.results hx
  simp at hu he hr
  cases ho : op c
  cases ho' : op' c
  simp_all

/-- What `fetch` answers. -/
theorem fetch_cons {s : State} {q : Issue} {rest : List Issue} (h : s.pending = q :: rest) :
    fetch s = some (q, { s with pending := rest }) := by
  simp [fetch, h]

/-- `fetch` on an empty stream. -/
theorem fetch_nil {s : State} (h : s.pending = []) : fetch s = none := by simp [fetch, h]

end Sys2Proof.Machine
end

