-- ==== Sys2Proof/Laws/PerInstr.lean ====
section
/-! SUPPORT. One lemma per constructor of Instr: decoding what the encoder writes gives the instruction back. -/

namespace Sys2Proof.Laws

/-- Decoding the encoding of a well-formed instruction gives that instruction. -/
def RoundTrip.Statement (i : Instr) : Prop := i.wf = true → decode (encode i) = .ok i

theorem RoundTrip.ctlStep (ch : Channel) (now : Timestamp) (m : Moisture) : RoundTrip.Statement (.ctlStep ch now m) := fun _ =>
  operands2_eq_ok.2 ⟨now, m, rfl, rfl⟩

theorem RoundTrip.ctlEnable (ch : Channel) : RoundTrip.Statement (.ctlEnable ch) := fun _ => by
  simp [encode, opPacket, decode, decodeOpSel, operands0]

theorem RoundTrip.ctlDisable (ch : Channel) : RoundTrip.Statement (.ctlDisable ch) := fun _ => by
  simp [encode, opPacket, decode, decodeOpSel, operands0]

theorem RoundTrip.ctlGetMoisture (ch : Channel) (m : Moisture) : RoundTrip.Statement (.ctlGetMoisture ch m) := fun _ => by
  simp [encode, opPacket, decode, decodeOpSel, operands1]

theorem RoundTrip.ctlGetThreshold (ch : Channel) : RoundTrip.Statement (.ctlGetThreshold ch) := fun _ => by
  simp [encode, opPacket, decode, decodeOpSel, operands0]

theorem RoundTrip.ctlSetThreshold (ch : Channel) (arg : Threshold) : RoundTrip.Statement (.ctlSetThreshold ch arg) := fun _ => by
  simp [encode, opPacket, decode, decodeOpSel, operands1]

theorem RoundTrip.ctlGetPulseLength (ch : Channel) : RoundTrip.Statement (.ctlGetPulseLength ch) := fun _ => by
  simp [encode, opPacket, decode, decodeOpSel, operands0]

theorem RoundTrip.ctlSetPulseLength (ch : Channel) (arg : Span) : RoundTrip.Statement (.ctlSetPulseLength ch arg) := fun _ => by
  simp [encode, opPacket, decode, decodeOpSel, operands1]

theorem RoundTrip.ctlGetFrequency (ch : Channel) : RoundTrip.Statement (.ctlGetFrequency ch) := fun _ => by
  simp [encode, opPacket, decode, decodeOpSel, operands0]

theorem RoundTrip.ctlSetFrequency (ch : Channel) (arg : Span) : RoundTrip.Statement (.ctlSetFrequency ch arg) := fun _ => by
  simp [encode, opPacket, decode, decodeOpSel, operands1]

theorem RoundTrip.ctlIsRunning (ch : Channel) (now : Timestamp) : RoundTrip.Statement (.ctlIsRunning ch now) := fun _ => by
  simp [encode, opPacket, decode, decodeOpSel, operands1]

theorem RoundTrip.ptActivate : RoundTrip.Statement .ptActivate := fun _ => by
  simp [encode, opPacket, decode, decodeOpSel, operands0]

theorem RoundTrip.ptDeactivate : RoundTrip.Statement .ptDeactivate := fun _ => by
  simp [encode, opPacket, decode, decodeOpSel, operands0]

theorem RoundTrip.ptIsFiring (now : Timestamp) : RoundTrip.Statement (.ptIsFiring now) := fun _ => by
  simp [encode, opPacket, decode, decodeOpSel, operands1]

theorem RoundTrip.ptGetPulseLength : RoundTrip.Statement .ptGetPulseLength := fun _ => by
  simp [encode, opPacket, decode, decodeOpSel, operands0]

theorem RoundTrip.ptSetPulseLength (arg : Span) : RoundTrip.Statement (.ptSetPulseLength arg) := fun _ => by
  simp [encode, opPacket, decode, decodeOpSel, operands1]

theorem RoundTrip.ptGetFrequency : RoundTrip.Statement .ptGetFrequency := fun _ => by
  simp [encode, opPacket, decode, decodeOpSel, operands0]

theorem RoundTrip.ptSetFrequency (arg : Span) : RoundTrip.Statement (.ptSetFrequency arg) := fun _ => by
  simp [encode, opPacket, decode, decodeOpSel, operands1]

theorem RoundTrip.codecDecode (word : CommandWord) : RoundTrip.Statement (.codecDecode word) := fun _ => by
  simp [encode, opPacket, decode, decodeOpSel, operands1]

theorem RoundTrip.codecEncode (r : Response) (t : Channel) (v : Value) : RoundTrip.Statement (.codecEncode r t v) := fun _ => by
  simp [encode, opPacket, decode, decodeOpSel, operandsEncode, bytes16]

theorem RoundTrip.codecEncode0 (r : Response) : RoundTrip.Statement (.codecEncode0 r) := fun _ => by
  simp [encode, opPacket, decode, decodeOpSel, operandsEncode0]

theorem RoundTrip.reqPing (t : Channel) (v : Value) : RoundTrip.Statement (.reqPing t v) := fun _ => by
  simp [encode, requestFrame, decode, decodeCommand, bytes16, requestRow]

theorem RoundTrip.reqGetMoisture (t : Channel) (v : Value) : RoundTrip.Statement (.reqGetMoisture t v) := fun _ => by
  simp [encode, requestFrame, decode, decodeCommand, bytes16, requestRow]

theorem RoundTrip.reqSetThreshold (t : Channel) (v : Value) : RoundTrip.Statement (.reqSetThreshold t v) := fun _ => by
  simp [encode, requestFrame, decode, decodeCommand, bytes16, requestRow]

theorem RoundTrip.reqGetPulseLength (t : Channel) (v : Value) : RoundTrip.Statement (.reqGetPulseLength t v) := fun _ => by
  simp [encode, requestFrame, decode, decodeCommand, bytes16, requestRow]

theorem RoundTrip.reqSetPulseLength (t : Channel) (v : Value) : RoundTrip.Statement (.reqSetPulseLength t v) := fun _ => by
  simp [encode, requestFrame, decode, decodeCommand, bytes16, requestRow]

theorem RoundTrip.reqGetIsRunning (t : Channel) (v : Value) : RoundTrip.Statement (.reqGetIsRunning t v) := fun _ => by
  simp [encode, requestFrame, decode, decodeCommand, bytes16, requestRow]

theorem RoundTrip.reqGetThreshold (t : Channel) (v : Value) : RoundTrip.Statement (.reqGetThreshold t v) := fun _ => by
  simp [encode, requestFrame, decode, decodeCommand, bytes16, requestRow]

theorem RoundTrip.reqEnable (t : Channel) (v : Value) : RoundTrip.Statement (.reqEnable t v) := fun _ => by
  simp [encode, requestFrame, decode, decodeCommand, bytes16, requestRow]

theorem RoundTrip.reqDisable (t : Channel) (v : Value) : RoundTrip.Statement (.reqDisable t v) := fun _ => by
  simp [encode, requestFrame, decode, decodeCommand, bytes16, requestRow]

theorem RoundTrip.reqGetFrequency (t : Channel) (v : Value) : RoundTrip.Statement (.reqGetFrequency t v) := fun _ => by
  simp [encode, requestFrame, decode, decodeCommand, bytes16, requestRow]

theorem RoundTrip.reqSetFrequency (t : Channel) (v : Value) : RoundTrip.Statement (.reqSetFrequency t v) := fun _ => by
  simp [encode, requestFrame, decode, decodeCommand, bytes16, requestRow]

theorem RoundTrip.reqUnknown (code : Byte) (t : Channel) (v : Value) : RoundTrip.Statement (.reqUnknown code t v) := fun h => by
  simp [encode, requestFrame, decode, decodeCommand, bytes16, requestRow_unnamed h]

theorem RoundTrip.rspPong (t : Channel) (v : Value) : RoundTrip.Statement (.rspPong t v) := fun _ => by
  simp [encode, responseFrame, decode, decodeResponse, bytes16, responseRow]

theorem RoundTrip.rspMoistureResponse (t : Channel) (v : Value) : RoundTrip.Statement (.rspMoistureResponse t v) := fun _ => by
  simp [encode, responseFrame, decode, decodeResponse, bytes16, responseRow]

theorem RoundTrip.rspSetThresholdResponse (t : Channel) (v : Value) : RoundTrip.Statement (.rspSetThresholdResponse t v) := fun _ => by
  simp [encode, responseFrame, decode, decodeResponse, bytes16, responseRow]

theorem RoundTrip.rspPulseLengthResponse (t : Channel) (v : Value) : RoundTrip.Statement (.rspPulseLengthResponse t v) := fun _ => by
  simp [encode, responseFrame, decode, decodeResponse, bytes16, responseRow]

theorem RoundTrip.rspSetPulseLengthResponse (t : Channel) (v : Value) : RoundTrip.Statement (.rspSetPulseLengthResponse t v) := fun _ => by
  simp [encode, responseFrame, decode, decodeResponse, bytes16, responseRow]

theorem RoundTrip.rspIsRunning (t : Channel) (v : Value) : RoundTrip.Statement (.rspIsRunning t v) := fun _ => by
  simp [encode, responseFrame, decode, decodeResponse, bytes16, responseRow]

theorem RoundTrip.rspThresholdResponse (t : Channel) (v : Value) : RoundTrip.Statement (.rspThresholdResponse t v) := fun _ => by
  simp [encode, responseFrame, decode, decodeResponse, bytes16, responseRow]

theorem RoundTrip.rspEnableResponse (t : Channel) (v : Value) : RoundTrip.Statement (.rspEnableResponse t v) := fun _ => by
  simp [encode, responseFrame, decode, decodeResponse, bytes16, responseRow]

theorem RoundTrip.rspDisableResponse (t : Channel) (v : Value) : RoundTrip.Statement (.rspDisableResponse t v) := fun _ => by
  simp [encode, responseFrame, decode, decodeResponse, bytes16, responseRow]

theorem RoundTrip.rspFrequencyResponse (t : Channel) (v : Value) : RoundTrip.Statement (.rspFrequencyResponse t v) := fun _ => by
  simp [encode, responseFrame, decode, decodeResponse, bytes16, responseRow]

theorem RoundTrip.rspSetFrequencyResponse (t : Channel) (v : Value) : RoundTrip.Statement (.rspSetFrequencyResponse t v) := fun _ => by
  simp [encode, responseFrame, decode, decodeResponse, bytes16, responseRow]

theorem RoundTrip.rspInvalidRequest (t : Channel) (v : Value) : RoundTrip.Statement (.rspInvalidRequest t v) := fun _ => by
  simp [encode, responseFrame, decode, decodeResponse, bytes16, responseRow]

end Sys2Proof.Laws
end

