-- ==== Sys2Proof/Laws/Run.lean ====
section
/-! SUPPORT. Steps and runs. -/

namespace Sys2Proof.Machine

/-- The step on a stream whose oldest packet decodes. -/
theorem step_of_decode {s : State} {q : Issue} {rest : List Issue} {i : Instr} (hp : s.pending = q :: rest)
    (hq : decode q = .ok i) : step s = exec i { s with pending := rest } := by
  unfold step
  rw [fetch_cons hp]
  simp only [hq]

/-- A step refuses, by the matching name, the oldest issued packet that the decoder refuses. -/
theorem step_of_error {s : State} {q : Issue} {rest : List Issue} {e : DecodeError} (hp : s.pending = q :: rest)
    (hd : decode q = .error e) : step s = .refused (refusalOf e) := by
  simp only [step, fetch_cons hp, hd]

/-- Everything a step can do when it answers next: wait, or run the instruction the oldest packet decodes to. -/
theorem step_next_cases {s t : State} (h : step s = .next t) :
    (s.pending = [] ∧ t = s) ∨
    ∃ q rest i, s.pending = q :: rest ∧ decode q = .ok i ∧ exec i { s with pending := rest } = .next t := by
  unfold step at h
  cases hp : s.pending with
  | nil => rw [fetch_nil hp] at h; exact .inl ⟨rfl, (by simpa using h.symm)⟩
  | cons q rest =>
    rw [fetch_cons hp] at h
    cases hd : decode q with
    | ok i => exact .inr ⟨q, rest, i, rfl, hd, by simpa only [hd] using h⟩
    | error e => simp [hd] at h

/-- A run of no steps. -/
@[simp] theorem run_zero (s : State) : Host.Core.run core 0 s = .next s := rfl

/-- A run whose first step answers next. -/
theorem run_succ {s t : State} (n : Nat) (h : step s = .next t) :
    Host.Core.run core (n + 1) s = Host.Core.run core n t := by
  have h' : Sys2Proof.core.step s = .next t := h
  simp only [Host.Core.run, h']

/-- If a run of `n + 1` steps answers next, so does its first step, and the other `n` run from there. -/
theorem run_succ_next {s u : State} {n : Nat} (h : Host.Core.run core (n + 1) s = .next u) :
    ∃ t, step s = .next t ∧ Host.Core.run core n t = .next u := by
  cases hs : step s with
  | next t => exact ⟨t, rfl, (run_succ n hs).symm.trans h⟩
  | fault r => cases r
  | refused r =>
    have h' : Sys2Proof.core.step s = .refused r := hs
    simp [Host.Core.run, h'] at h

/-- A run in two parts. -/
theorem run_add {s t : State} {m : Nat} (n : Nat) (h : Host.Core.run core m s = .next t) :
    Host.Core.run core (m + n) s = Host.Core.run core n t := by
  induction m generalizing s with
  | zero =>
    have : s = t := by injection h
    rw [this, Nat.zero_add]
  | succ m ih =>
    obtain ⟨u, hu, hr⟩ := run_succ_next h
    rw [Nat.succ_add, run_succ _ hu, ih hr]

/-- What a step keeps, a run keeps. -/
theorem run_keeps {P : State → Prop} (hstep : ∀ s t, P s → step s = .next t → P t) (n : Nat) {s u : State} (hs : P s)
    (h : Host.Core.run core n s = .next u) : P u := by
  induction n generalizing s with
  | zero =>
    have : s = u := by injection h
    exact this ▸ hs
  | succ n ih =>
    obtain ⟨t, ht, hr⟩ := run_succ_next h
    exact ih (hstep s t hs ht) hr

end Sys2Proof.Machine
end

