-- ==== Sys2Proof/Laws/Timer.lean ====
section
/-! SUPPORT. The timer operations, field by field, and the elapsed time as a number. -/

namespace Sys2Proof.Machine

variable {ts ms : Nat} (p : PulseTimerOf ts) (now : BitVec ts)

@[simp] theorem PulseTimerOf.activate_running : p.activate.running = true := rfl
@[simp] theorem PulseTimerOf.activate_frequency : p.activate.frequency = p.frequency := rfl
@[simp] theorem PulseTimerOf.activate_pulseLength : p.activate.pulseLength = p.pulseLength := rfl
@[simp] theorem PulseTimerOf.activate_lastCycleStart : p.activate.lastCycleStart = p.lastCycleStart := rfl

@[simp] theorem PulseTimerOf.deactivate_running : p.deactivate.running = false := rfl
@[simp] theorem PulseTimerOf.deactivate_frequency : p.deactivate.frequency = p.frequency := rfl
@[simp] theorem PulseTimerOf.deactivate_pulseLength : p.deactivate.pulseLength = p.pulseLength := rfl
@[simp] theorem PulseTimerOf.deactivate_lastCycleStart : p.deactivate.lastCycleStart = p.lastCycleStart := rfl

@[simp] theorem PulseTimerOf.reanchor_running : (p.reanchor now).running = p.running := by
  unfold PulseTimerOf.reanchor; split <;> rfl
@[simp] theorem PulseTimerOf.reanchor_frequency : (p.reanchor now).frequency = p.frequency := by
  unfold PulseTimerOf.reanchor; split <;> rfl
@[simp] theorem PulseTimerOf.reanchor_pulseLength : (p.reanchor now).pulseLength = p.pulseLength := by
  unfold PulseTimerOf.reanchor; split <;> rfl

@[simp] theorem PulseTimerOf.isFiring_fst : (p.isFiring now).1 = p.reanchor now := rfl
@[simp] theorem PulseTimerOf.isFiring_snd : (p.isFiring now).2 = (p.reanchor now).firesAt now := rfl

/-- The elapsed time is the difference modulo the width of the counter (00_scope.md R12). -/
theorem elapsed_toNat {w : Nat} (a b : BitVec w) :
    (elapsed a b).toNat = (a.toNat + (2 ^ w - b.toNat)) % 2 ^ w := by
  simp [elapsed, BitVec.toNat_sub, Nat.add_comm]

/-- No time has passed at the anchor. -/
@[simp] theorem elapsed_self {w : Nat} (a : BitVec w) : elapsed a a = 0 := by simp [elapsed]

/-- As the clock goes on by `d`, so does the elapsed time, while it stays below the wrap. -/
theorem elapsed_add {w : Nat} (now a : BitVec w) (d : Nat) (h : (elapsed now a).toNat + d < 2 ^ w) :
    (elapsed (now + BitVec.ofNat w d) a).toNat = (elapsed now a).toNat + d := by
  have e : elapsed (now + BitVec.ofNat w d) a = elapsed now a + BitVec.ofNat w d := by
    simp only [elapsed, BitVec.sub_eq_add_neg, BitVec.add_assoc, BitVec.add_comm (-a)]
  rw [e, BitVec.toNat_add, BitVec.toNat_ofNat, Nat.add_mod_mod, Nat.mod_eq_of_lt h]

/-- Between true times less than a wrap apart, the elapsed time is the true one (41_pulse_timer.md R155). -/
theorem elapsed_ofNat {w : Nat} {anchor now : Nat} (h : anchor ≤ now) (hw : now < anchor + 2 ^ w) :
    (elapsed (BitVec.ofNat w now) (BitVec.ofNat w anchor)).toNat = now - anchor := by
  have e : BitVec.ofNat w now = BitVec.ofNat w anchor + BitVec.ofNat w (now - anchor) := by
    rw [← BitVec.ofNat_add, Nat.add_sub_cancel' h]
  rw [e, elapsed_add] <;> simp only [elapsed, BitVec.sub_self, BitVec.toNat_zero, Nat.zero_add]
  omega

/-- The poll of an Idle timer writes nothing (41_pulse_timer.md R156). -/
theorem PulseTimerOf.reanchor_idle {p : PulseTimerOf ts} (h : p.running = false) (now : BitVec ts) : p.reanchor now = p := by
  simp [PulseTimerOf.reanchor, h]

/-- The anchor after a poll: `now` when an Active cycle is over, and otherwise the old one (R143 step 2). -/
theorem PulseTimerOf.reanchor_lastCycleStart :
    (p.reanchor now).lastCycleStart =
      if p.running && cycleOver (elapsed now p.lastCycleStart) p.frequency then now else p.lastCycleStart := by
  unfold PulseTimerOf.reanchor; split <;> rfl

variable (m : BitVec ms) (c : ControllerOf ts)

@[simp] theorem ControllerOf.armed_running : (c.armed m).running = aboveThreshold m c.humidityThreshold := by
  unfold ControllerOf.armed; split <;> simp_all
@[simp] theorem ControllerOf.armed_frequency : (c.armed m).frequency = c.pulse.frequency := by
  unfold ControllerOf.armed; split <;> rfl
@[simp] theorem ControllerOf.armed_pulseLength : (c.armed m).pulseLength = c.pulse.pulseLength := by
  unfold ControllerOf.armed; split <;> rfl
@[simp] theorem ControllerOf.armed_lastCycleStart : (c.armed m).lastCycleStart = c.pulse.lastCycleStart := by
  unfold ControllerOf.armed; split <;> rfl

@[simp] theorem ControllerOf.stepped_fst :
    (c.stepped now m).1 =
      { c with pulse := (c.armed m).reanchor now, pumpOut := pumpLevel (((c.armed m).reanchor now).firesAt now) } := rfl
@[simp] theorem ControllerOf.stepped_snd : (c.stepped now m).2 = ((c.armed m).reanchor now).firesAt now := rfl

@[simp] theorem pumpLevel_true : pumpLevel true = .low := rfl
@[simp] theorem pumpLevel_false : pumpLevel false = .high := rfl

end Sys2Proof.Machine
end

