-- ==== Sys2Proof/Laws/Trace.lean ====
section
/-! SUPPORT. The projections of the trace, and the channel units after construction. -/

namespace Sys2Proof.Machine

/-- The pump writes of two stretches of the trace. -/
theorem pumpWritesOf_append (ch : Channel) (a b : List Event) :
    pumpWritesOf ch (a ++ b) = pumpWritesOf ch a ++ pumpWritesOf ch b := by
  induction a with
  | nil => rfl
  | cons e a ih =>
    cases e with
    | sensorRead _ _ => exact ih
    | clockRead _ _ => exact ih
    | pumpWrite d level =>
      simp only [List.cons_append, pumpWritesOf, ih]
      split <;> rfl

/-- The clock readings of two stretches of the trace. -/
theorem clockReadsOf_append (a b : List Event) : clockReadsOf (a ++ b) = clockReadsOf a ++ clockReadsOf b := by
  induction a with
  | nil => rfl
  | cons e a ih => cases e <;> simp [clockReadsOf, ih]

/-- The sensor readings of two stretches of the trace. -/
theorem sensorReadsOf_append (a b : List Event) : sensorReadsOf (a ++ b) = sensorReadsOf a ++ sensorReadsOf b := by
  induction a with
  | nil => rfl
  | cons e a ih => cases e <;> simp [sensorReadsOf, ih]

/-- There are at most 256 channel units (10_state.md R39). -/
theorem numChannels_le : Config.numChannels ≤ 256 := by
  have h := Config.extraChannels.isLt
  unfold Config.numChannels
  omega

/-- There is at least one channel unit. -/
theorem numChannels_pos : 0 < Config.numChannels := Nat.succ_pos _

/-- The channel unit at each index is the one with that index. -/
theorem channelIndexes_get {ch : Channel} (h : ch.toNat < Config.numChannels) : channelIndexes[ch.toNat]? = some ch := by
  simp [channelIndexes, h]

/-- No two channel units have one index. -/
theorem channelIndexes_nodup : channelIndexes.Nodup := by
  refine List.Nodup.map_on ?_ List.nodup_range'
  intro x hx y hy e
  have hn := numChannels_le
  simp only [List.mem_range'_1] at hx hy
  have h := congrArg BitVec.toNat e
  simp only [BitVec.toNat_ofNat] at h
  omega

/-- The record of a channel after an instruction, by whether the instruction is an operation on it. -/
theorem exec_channel_cases {i : Instr} {s t : State} (h : exec i s = .next t) {ch : Channel} {c c' : Controller}
    (hc : s.channels[ch.toNat]? = some c) (hc' : t.channels[ch.toNat]? = some c') :
    c' = c ∨ ∃ op, i.channel? = some ch ∧ (∀ s, exec i s = onChannel ch op s) ∧ c' = (op c).unit := by
  rcases exec_next_cases h with ⟨d, op, c0, hi, ho, h0, rfl⟩ | ⟨op, -, -, -, rfl⟩ | ⟨r, -, -, -, rfl⟩
  · by_cases hd : ch = d
    · subst hd
      rw [hc] at h0
      injection h0 with h0
      subst h0
      simp only [State.answer_channels, State.emit_channels, State.setChannel_same hc] at hc'
      injection hc' with hc'
      exact .inr ⟨op, hi, ho, hc'.symm⟩
    · simp only [State.answer_channels, State.emit_channels, State.setChannel_other hd, hc] at hc'
      injection hc' with hc'
      exact .inl hc'.symm
  · simp only [State.answer_channels, State.emit_channels, State.setTimer_channels, hc] at hc'
    injection hc' with hc'
    exact .inl hc'.symm
  · simp only [State.answer_channels, hc] at hc'
    injection hc' with hc'
    exact .inl hc'.symm

end Sys2Proof.Machine
end

