-- ==== Sys2Proof/Tests/Slice0.lean ====
section
/-! SUPPORT. Tests, and for each statement with hypotheses a witness that meets them. The expected results are those of
spec/95_test_vectors.md (its vector ids stand in the docstrings) and of the tables of spec/30_encoding.md. -/

namespace Sys2Proof.Tests

open Sys2Proof.Machine

/-! ### Small states -/

/-- A timer with its four registers in the order of 95_test_vectors.md section 2.3. -/
def timerOf (running : Bool) (anchor : Timestamp) (frequency pulseLength : Span) : PulseTimer :=
  { running := running, frequency := frequency, pulseLength := pulseLength, lastCycleStart := anchor }

/-- `S0` of 95_test_vectors.md section 2.4. -/
def s0 : Controller :=
  { humidityThreshold := 1000, enabled := true, pulse := timerOf false 0 5000 2000, pumpOut := .high }

/-- `S0` in mid-on-phase. -/
def watering : Controller := { s0 with pulse := timerOf true 0 5000 2000, pumpOut := .low }

/-- `S0` disabled. -/
def off : Controller := { s0 with enabled := false }

/-- A state with these channel units and this standalone timer, and nothing issued. -/
def bench (channels : List Controller) (timer : PulseTimer) : State := ⟨channels, timer, [], [], []⟩

/-- A state with `S0` at channel 0 and a watering channel 1, the standalone timer Active. -/
def two : State := bench [s0, watering] (timerOf true 0 5000 2000)

/-- A state with one channel unit. -/
def one (c : Controller) : State := bench [c] (timerOf false 0 5000 2000)

/-- A state with this standalone timer. -/
def clocked (p : PulseTimer) : State := bench [s0] p

/-- The state after an instruction, or the state before it where it has none. -/
def next (i : Instr) (s : State) : State :=
  match exec i s with
  | .next t => t
  | .fault _ => s
  | .refused _ => s

/-- The state after some instructions. -/
def after (is : List Instr) (s : State) : State := is.foldl (fun s i => next i s) s

/-- The results of some instructions. -/
def resultsOf (is : List Instr) (s : State) : List Result := (after is s).results

/-- The levels written to the pump of channel 0. -/
def writesOf (is : List Instr) (s : State) : List Level := pumpWritesOf 0 (after is s).trace

/-! ### Well-formedness: the ill-formed term is refused, its neighbours are not -/

theorem test_wf_refuses_named_code_in_unknown_row : Instr.wf (.reqUnknown 0x0A 0 0) = false := by decide

theorem test_wf_accepts_first_unnamed_code : Instr.wf (.reqUnknown 0x0B 0 0) = true := by decide

/-! ### Decoding: a packet for every row, written out from R80, R81, R70, R74 and R75 -/

theorem test_decode_ctl :
    decode ⟨3, .opSel, [0x00, 0x89, 0x13, 0x00, 0x00, 0x4C, 0x04]⟩ = .ok (.ctlStep 3 5001 1100) ∧
    decode ⟨3, .opSel, [0x01]⟩ = .ok (.ctlEnable 3) ∧
    decode ⟨3, .opSel, [0x02]⟩ = .ok (.ctlDisable 3) ∧
    decode ⟨3, .opSel, [0x03, 0xDE, 0x02]⟩ = .ok (.ctlGetMoisture 3 734) ∧
    decode ⟨3, .opSel, [0x04]⟩ = .ok (.ctlGetThreshold 3) ∧
    decode ⟨3, .opSel, [0x05, 0x00, 0x02]⟩ = .ok (.ctlSetThreshold 3 512) ∧
    decode ⟨3, .opSel, [0x06]⟩ = .ok (.ctlGetPulseLength 3) ∧
    decode ⟨3, .opSel, [0x07, 0xD0, 0x07, 0x00, 0x00]⟩ = .ok (.ctlSetPulseLength 3 2000) ∧
    decode ⟨3, .opSel, [0x08]⟩ = .ok (.ctlGetFrequency 3) ∧
    decode ⟨3, .opSel, [0x09, 0x88, 0x13, 0x00, 0x00]⟩ = .ok (.ctlSetFrequency 3 5000) ∧
    decode ⟨3, .opSel, [0x0A, 0x40, 0x06, 0x00, 0x00]⟩ = .ok (.ctlIsRunning 3 1600) := by
  refine ⟨rfl, rfl, rfl, rfl, rfl, rfl, rfl, rfl, rfl, rfl, rfl⟩

theorem test_decode_pt :
    decode ⟨0, .opSel, [0x10]⟩ = .ok .ptActivate ∧
    decode ⟨0, .opSel, [0x11]⟩ = .ok .ptDeactivate ∧
    decode ⟨0, .opSel, [0x12, 0x88, 0x03, 0x00, 0xFF]⟩ = .ok (.ptIsFiring 0xFF000388) ∧
    decode ⟨0, .opSel, [0x13]⟩ = .ok .ptGetPulseLength ∧
    decode ⟨0, .opSel, [0x14, 0x78, 0x56, 0x34, 0x12]⟩ = .ok (.ptSetPulseLength 0x12345678) ∧
    decode ⟨0, .opSel, [0x15]⟩ = .ok .ptGetFrequency ∧
    decode ⟨0, .opSel, [0x16, 0x64, 0x00, 0x00, 0x00]⟩ = .ok (.ptSetFrequency 100) := by
  refine ⟨rfl, rfl, rfl, rfl, rfl, rfl, rfl⟩

theorem test_decode_codec :
    decode ⟨0, .opSel, [0x20, 0x05, 0x56, 0x34, 0x12]⟩ = .ok (.codecDecode 0x12345605) ∧
    decode ⟨0, .opSel, [0x21, 0x04, 0x07, 0x00, 0x01]⟩ = .ok (.codecEncode .setPulseLengthResponse 7 256) ∧
    decode ⟨0, .opSel, [0x22, 0x00]⟩ = .ok (.codecEncode0 .pong) := by
  refine ⟨rfl, rfl, rfl⟩

/-- The frames of CD-1 to CD-12 and CD-17. -/
theorem test_decode_requests :
    decode ⟨0, .command, [0x00, 0x00, 0x00, 0x00]⟩ = .ok (.reqPing 0 0) ∧
    decode ⟨0, .command, [0x01, 0x02, 0x00, 0x00]⟩ = .ok (.reqGetMoisture 2 0) ∧
    decode ⟨0, .command, [0x02, 0x03, 0x00, 0x02]⟩ = .ok (.reqSetThreshold 3 512) ∧
    decode ⟨0, .command, [0x03, 0x00, 0x00, 0x00]⟩ = .ok (.reqGetPulseLength 0 0) ∧
    decode ⟨0, .command, [0x04, 0x00, 0xD0, 0x07]⟩ = .ok (.reqSetPulseLength 0 2000) ∧
    decode ⟨0, .command, [0x05, 0x56, 0x34, 0x12]⟩ = .ok (.reqGetIsRunning 86 4660) ∧
    decode ⟨0, .command, [0x06, 0xFF, 0x00, 0x00]⟩ = .ok (.reqGetThreshold 255 0) ∧
    decode ⟨0, .command, [0x07, 0x00, 0x00, 0x00]⟩ = .ok (.reqEnable 0 0) ∧
    decode ⟨0, .command, [0x08, 0x00, 0x00, 0x00]⟩ = .ok (.reqDisable 0 0) ∧
    decode ⟨0, .command, [0x09, 0x00, 0x00, 0x00]⟩ = .ok (.reqGetFrequency 0 0) ∧
    decode ⟨0, .command, [0x0A, 0x00, 0x88, 0x13]⟩ = .ok (.reqSetFrequency 0 5000) ∧
    decode ⟨0, .command, [0x0B, 0x01, 0x00, 0x00]⟩ = .ok (.reqUnknown 0x0B 1 0) := by
  refine ⟨rfl, rfl, rfl, rfl, rfl, rfl, rfl, rfl, rfl, rfl, rfl, rfl⟩

/-- The frames of CE-1 to CE-11 and CE-13. -/
theorem test_decode_responses :
    decode ⟨0, .response, [0x00, 0x00, 0x00, 0x00]⟩ = .ok (.rspPong 0 0) ∧
    decode ⟨0, .response, [0x01, 0x00, 0xFF, 0x03]⟩ = .ok (.rspMoistureResponse 0 1023) ∧
    decode ⟨0, .response, [0x02, 0x03, 0x00, 0x02]⟩ = .ok (.rspSetThresholdResponse 3 512) ∧
    decode ⟨0, .response, [0x03, 0x01, 0xD0, 0x07]⟩ = .ok (.rspPulseLengthResponse 1 2000) ∧
    decode ⟨0, .response, [0x04, 0x07, 0x00, 0x01]⟩ = .ok (.rspSetPulseLengthResponse 7 256) ∧
    decode ⟨0, .response, [0x05, 0x00, 0x01, 0x00]⟩ = .ok (.rspIsRunning 0 1) ∧
    decode ⟨0, .response, [0x06, 0x03, 0xE8, 0x03]⟩ = .ok (.rspThresholdResponse 3 1000) ∧
    decode ⟨0, .response, [0x07, 0x00, 0xFF, 0x00]⟩ = .ok (.rspEnableResponse 0 255) ∧
    decode ⟨0, .response, [0x08, 0xFF, 0x00, 0x00]⟩ = .ok (.rspDisableResponse 255 0) ∧
    decode ⟨0, .response, [0x09, 0x00, 0x88, 0x13]⟩ = .ok (.rspFrequencyResponse 0 5000) ∧
    decode ⟨0, .response, [0x0A, 0x00, 0xFF, 0xFF]⟩ = .ok (.rspSetFrequencyResponse 0 0xFFFF) ∧
    decode ⟨0, .response, [0xFF, 0x09, 0x34, 0x12]⟩ = .ok (.rspInvalidRequest 9 0x1234) := by
  refine ⟨rfl, rfl, rfl, rfl, rfl, rfl, rfl, rfl, rfl, rfl, rfl, rfl⟩

/-- The op_sel bytes at the edges of the gaps of R80, the codes at the edges of R78 (CE-15), and packets that are not whole. -/
theorem test_decode_refuses_by_name :
    decode ⟨0, .opSel, [0x0B]⟩ = .error (.opSelUnassigned 0x0B) ∧
    decode ⟨0, .opSel, [0x0F]⟩ = .error (.opSelUnassigned 0x0F) ∧
    decode ⟨0, .opSel, [0x17]⟩ = .error (.opSelUnassigned 0x17) ∧
    decode ⟨0, .opSel, [0x1F]⟩ = .error (.opSelUnassigned 0x1F) ∧
    decode ⟨0, .opSel, [0x23]⟩ = .error (.opSelUnassigned 0x23) ∧
    decode ⟨0, .opSel, [0xFF]⟩ = .error (.opSelUnassigned 0xFF) ∧
    decode ⟨0, .opSel, [0x22, 0x0B]⟩ = .error (.responseCodeUnassigned 0x0B) ∧
    decode ⟨0, .opSel, [0x21, 0xFE, 0, 0, 0]⟩ = .error (.responseCodeUnassigned 0xFE) ∧
    decode ⟨0, .response, [0x0B, 0, 0, 0]⟩ = .error (.responseCodeUnassigned 0x0B) ∧
    decode ⟨0, .opSel, []⟩ = .error (.packetNotWhole .opSel) ∧
    decode ⟨0, .opSel, [0x00, 0, 0, 0, 0, 0]⟩ = .error (.packetNotWhole .opSel) ∧
    decode ⟨0, .command, [0, 0, 0]⟩ = .error (.packetNotWhole .command) ∧
    decode ⟨0, .response, [0, 0, 0, 0, 0]⟩ = .error (.packetNotWhole .response) := by
  refine ⟨rfl, rfl, rfl, rfl, rfl, rfl, rfl, rfl, rfl, rfl, rfl, rfl, rfl⟩

/-- A width that is no multiple of 8: the bits above it must be 0 (log 3). -/
theorem test_read_bytes_of_another_width :
    readBytes 10 [0xFF, 0x03] = some 1023 ∧ readBytes 10 [0x00, 0x04] = none ∧ bytesOf (1023 : BitVec 10) = [0xFF, 0x03] := by
  decide

/-- Words numbered as the opcode table numbers them: an op_sel row has 8 bits, a frame row 32 (log 4). -/
theorem test_decode_table_words :
    decodeTableWord 8 0x00 = some (.ctlStep 0 0 0) ∧ decodeTableWord 8 0x0A = some (.ctlIsRunning 0 0) ∧
    decodeTableWord 8 0x16 = some (.ptSetFrequency 0) ∧ decodeTableWord 8 0x20 = some (.codecDecode 0) ∧
    decodeTableWord 8 0x21 = some (.codecEncode .pong 0 0) ∧ decodeTableWord 8 0x22 = some (.codecEncode0 .pong) ∧
    decodeTableWord 32 0x02000302 = some (.reqSetThreshold 3 512) ∧
    decodeTableWord 32 0x0000010B = some (.reqUnknown 0x0B 1 0) ∧
    decodeTableWord 32 0x123409FF = some (.rspInvalidRequest 9 0x1234) ∧
    encode (.ctlSetThreshold 0 512) = ⟨0, .opSel, [0x05, 0x00, 0x02]⟩ := by
  refine ⟨rfl, rfl, rfl, rfl, rfl, rfl, rfl, rfl, rfl, rfl⟩

/-- Table words that are no operation: an op_sel byte R80 does not list, and a word longer than its operation (log 4). -/
theorem test_decode_table_words_refused :
    decodeTableWord 8 0x0B = none ∧ decodeTableWord 8 0xFF = none ∧ decodeTableWord 16 0x0B01 = none ∧
    decodeTableWord 16 0x0001 = none ∧ decodeTableWord 24 0x020005 = some (.ctlSetThreshold 0 512) ∧
    decodeTableWord 16 0x0005 = some (.ctlSetThreshold 0 0) := by
  refine ⟨rfl, rfl, rfl, rfl, rfl, rfl⟩

/-- The first operations after reset run (log 1): an operation packet and a frame. -/
theorem test_step_after_reset :
    (∃ t, step (State.reset.withFetchWord 8 0x04) = .next t ∧ t.results = [.half 1000] ∧ t.pending = []) ∧
    (∃ t, step (State.reset.withFetchWord 32 0x02000302) = .next t ∧ t.results = [.bundle ⟨.setThreshold, 3, 512⟩]) :=
  ⟨⟨_, rfl, rfl, rfl⟩, _, rfl, rfl⟩

/-! ### The codec -/

/-- CD-3, CD-14, CD-16, CD-17. -/
theorem test_decode_operation :
    resultsOf [.codecDecode 0x02000302, .codecDecode 0xFFFFFFFF, .codecDecode 0x000000FE, .codecDecode 0x12345605] two =
      [.bundle ⟨.setThreshold, 3, 512⟩, .bundle ⟨.unknown, 255, 65535⟩, .bundle ⟨.unknown, 0, 0⟩,
        .bundle ⟨.getIsRunning, 86, 4660⟩] := by decide

/-- CE-5, CE-13. -/
theorem test_encode_operation :
    resultsOf [.codecEncode .setPulseLengthResponse 7 0x0100, .codecEncode .invalidRequest 9 0x1234] two =
      [.frame ⟨0x04, 0x07, 0x00, 0x01⟩, .frame ⟨0xFF, 0x09, 0x34, 0x12⟩] := by decide

/-- CE-12, CE-16. -/
theorem test_encode_zero_operation :
    resultsOf [.codecEncode0 .invalidRequest, .codecEncode0 .disableResponse] two =
      [.frame ⟨0xFF, 0x00, 0x00, 0x00⟩, .frame ⟨0x08, 0x00, 0x00, 0x00⟩] := by decide

/-- CE-14. -/
theorem test_encode_wide_value : encodeFrame .frequencyResponse 0 (0x12345678 : BitVec 32) = ⟨0x09, 0x00, 0x78, 0x56⟩ := by
  decide

/-- The request rows in the order of R104 to R115, with target 3 and value 512. -/
theorem test_request_rows :
    resultsOf [.reqPing 3 512, .reqGetMoisture 3 512, .reqSetThreshold 3 512, .reqGetPulseLength 3 512, .reqSetPulseLength 3 512,
        .reqGetIsRunning 3 512] two =
      [.bundle ⟨.ping, 3, 512⟩, .bundle ⟨.getMoisture, 3, 512⟩, .bundle ⟨.setThreshold, 3, 512⟩,
        .bundle ⟨.getPulseLength, 3, 512⟩, .bundle ⟨.setPulseLength, 3, 512⟩, .bundle ⟨.getIsRunning, 3, 512⟩] ∧
    resultsOf [.reqGetThreshold 3 512, .reqEnable 3 512, .reqDisable 3 512, .reqGetFrequency 3 512, .reqSetFrequency 3 512,
        .reqUnknown 0x7F 3 512] two =
      [.bundle ⟨.getThreshold, 3, 512⟩, .bundle ⟨.enable, 3, 512⟩, .bundle ⟨.disable, 3, 512⟩,
        .bundle ⟨.getFrequency, 3, 512⟩, .bundle ⟨.setFrequency, 3, 512⟩, .bundle ⟨.unknown, 3, 512⟩] := by decide

/-- The response rows in the order of R116 to R127, with target 1 and value 2000 = 0x07D0. -/
theorem test_response_rows :
    resultsOf [.rspPong 1 2000, .rspMoistureResponse 1 2000, .rspSetThresholdResponse 1 2000, .rspPulseLengthResponse 1 2000,
        .rspSetPulseLengthResponse 1 2000, .rspIsRunning 1 2000] two =
      [.frame ⟨0x00, 0x01, 0xD0, 0x07⟩, .frame ⟨0x01, 0x01, 0xD0, 0x07⟩, .frame ⟨0x02, 0x01, 0xD0, 0x07⟩,
        .frame ⟨0x03, 0x01, 0xD0, 0x07⟩, .frame ⟨0x04, 0x01, 0xD0, 0x07⟩, .frame ⟨0x05, 0x01, 0xD0, 0x07⟩] ∧
    resultsOf [.rspThresholdResponse 1 2000, .rspEnableResponse 1 2000, .rspDisableResponse 1 2000, .rspFrequencyResponse 1 2000,
        .rspSetFrequencyResponse 1 2000, .rspInvalidRequest 1 2000] two =
      [.frame ⟨0x06, 0x01, 0xD0, 0x07⟩, .frame ⟨0x07, 0x01, 0xD0, 0x07⟩, .frame ⟨0x08, 0x01, 0xD0, 0x07⟩,
        .frame ⟨0x09, 0x01, 0xD0, 0x07⟩, .frame ⟨0x0A, 0x01, 0xD0, 0x07⟩, .frame ⟨0xFF, 0x01, 0xD0, 0x07⟩] := by decide

/-! ### The timer -/

/-- PT-3, PT-4. -/
theorem test_pt_activate :
    (next .ptActivate (clocked (timerOf false 7 5000 2000))).timer = timerOf true 7 5000 2000 ∧
    (next .ptActivate (clocked (timerOf true 7 5000 2000))).timer = timerOf true 7 5000 2000 := by decide

/-- PT-12, PT-13. -/
theorem test_pt_deactivate :
    resultsOf [.ptIsFiring 1000, .ptDeactivate, .ptIsFiring 1001] (clocked (timerOf true 0 5000 2000)) =
      [.bool true, .none, .bool false] ∧
    (next .ptDeactivate (clocked (timerOf false 7 5000 2000))).timer = timerOf false 7 5000 2000 := by decide

/-- PT-5, PT-6 and the re-anchor of L1-6. -/
theorem test_pt_is_firing_edges :
    resultsOf [.ptIsFiring 1999, .ptIsFiring 2000, .ptIsFiring 5000, .ptIsFiring 5001, .ptIsFiring 7000]
      (clocked (timerOf true 0 5000 2000)) = [.bool true, .bool false, .bool false, .bool true, .bool true] := by decide

/-- PT-11: the counter wraps. -/
theorem test_pt_is_firing_wrap :
    resultsOf [.ptIsFiring 0xFFFFF400, .ptIsFiring 0x388, .ptIsFiring 0x389, .ptIsFiring 0xB58, .ptIsFiring 0xB59]
      (clocked (timerOf true 0xFFFFF000 5000 2000)) = [.bool true, .bool false, .bool true, .bool true, .bool false] := by
  decide

/-- PT-19. -/
theorem test_pt_pulse_length :
    resultsOf [.ptSetPulseLength 0xFFFFFFFF, .ptGetPulseLength] (clocked (timerOf false 0 5000 2000)) =
      [.none, .word 0xFFFFFFFF] := by decide

/-- PT-18, PT-20. -/
theorem test_pt_frequency :
    (after [.ptSetFrequency 100, .ptIsFiring 3000] (clocked (timerOf true 0 5000 2000))).timer = timerOf true 3000 100 2000 ∧
    resultsOf [.ptSetFrequency 0, .ptGetFrequency] (clocked (timerOf false 0 5000 2000)) = [.none, .word 0] := by decide

/-! ### The controller -/

/-- CT-1, CT-2. -/
theorem test_ctl_step_comparator_is_strict :
    resultsOf [.ctlStep 0 10 1000, .ctlStep 0 20 1001] (one s0) = [.bool false, .bool true] ∧
    writesOf [.ctlStep 0 10 1000, .ctlStep 0 20 1001] (one s0) = [.high, .low] := by decide

/-- CT-5. -/
theorem test_ctl_step_disabled_does_nothing :
    exec (.ctlStep 0 100 5000) (one off) = .next { one off with results := [.bool false] } := rfl

/-- CT-8, CT-9. -/
theorem test_ctl_enable :
    (next (.ctlEnable 0) (one off)).channels = [s0] ∧ (next (.ctlEnable 0) (one s0)).channels = [s0] ∧
    writesOf [.ctlEnable 0] (one off) = [] := by decide

/-- CT-6, CT-7. -/
theorem test_ctl_disable :
    (next (.ctlDisable 0) (one watering)).channels = [off] ∧
    writesOf [.ctlDisable 0, .ctlDisable 0] (one watering) = [.high, .high] := by decide

/-- CT-10. -/
theorem test_ctl_get_moisture :
    exec (.ctlGetMoisture 0 734) (one off) = .next { one off with results := [.moisture 734], trace := [.sensorRead 0 734] } :=
  rfl

/-- CT-11. -/
theorem test_ctl_threshold :
    resultsOf [.ctlSetThreshold 0 0xFFFF, .ctlGetThreshold 0] (one s0) = [.none, .half 0xFFFF] := by decide

/-- CT-12. -/
theorem test_ctl_delegated_accessors :
    resultsOf [.ctlSetPulseLength 0 0, .ctlGetPulseLength 0, .ctlSetFrequency 0 0xFFFFFFFF, .ctlGetFrequency 0] (one s0) =
      [.none, .word 0, .none, .word 0xFFFFFFFF] ∧
    ((after [.ctlSetPulseLength 0 0, .ctlSetFrequency 0 0xFFFFFFFF] (one s0)).channels.map (·.pulse)) =
      [timerOf false 0 0xFFFFFFFF 0] := by decide

/-- CT-14, CT-15. -/
theorem test_ctl_is_running_moves_the_anchor_only :
    resultsOf [.ctlStep 0 100 1500, .ctlIsRunning 0 3000, .ctlIsRunning 0 5001, .ctlStep 0 6000 1500] (one s0) =
      [.bool true, .bool false, .bool true, .bool true] ∧
    writesOf [.ctlStep 0 100 1500, .ctlIsRunning 0 3000, .ctlIsRunning 0 5001, .ctlStep 0 6000 1500] (one s0) =
      [.low, .low] := by decide

/-- RS-1: right after construction the timer is Idle, whatever the open values are. -/
theorem test_ctl_is_running_after_reset :
    (exec (.ctlIsRunning 0 0) State.reset) =
      .next { State.reset with
        trace := State.reset.trace ++ [.clockRead (.channel 0) 0]
        results := [.bool false] } := rfl

/-- P3 of section 3: disabled, then enabled again onto the stale anchor. -/
theorem test_program_p3 :
    resultsOf [.ctlStep 0 1000 2000, .ctlDisable 0, .ctlStep 0 1500 2000, .ctlIsRunning 0 1600, .ctlEnable 0, .ctlStep 0 1700 2000,
      .ctlStep 0 2000 2000] (one s0) = [.bool true, .none, .bool false, .bool false, .none, .bool true, .bool false] := by
  decide

/-! ### Witnesses: the hypotheses of each statement are met together -/

/-- Every channel unit holds this record, and each pump was last driven to its level. -/
def fleet (c : Controller) : State :=
  { channels := List.replicate Config.numChannels c
    timer := timerOf false 0 5000 2000
    trace := channelIndexes.map fun ch => .pumpWrite ch c.pumpOut
    results := []
    pending := [encode (.ctlDisable 0)] }

/-- The last write to a pump, where every channel unit of a list was driven once to one level. -/
theorem fleet_last_write (level : Level) (ch : Channel) (l : List Channel) (h : ch ∈ l) :
    (pumpWritesOf ch (l.map fun d => .pumpWrite d level)).getLast? = some level := by
  have key : ∀ l : List Channel, ∀ x ∈ pumpWritesOf ch (l.map fun d => .pumpWrite d level), x = level := by
    intro l
    induction l with
    | nil => intro x hx; cases hx
    | cons d l ih =>
      intro x hx
      simp only [List.map_cons, pumpWritesOf] at hx
      split at hx
      · rcases List.mem_cons.1 hx with rfl | hx
        · rfl
        · exact ih x hx
      · exact ih x hx
  have ne : pumpWritesOf ch (l.map fun d => .pumpWrite d level) ≠ [] := by
    induction l with
    | nil => cases h
    | cons d l ih =>
      simp only [List.map_cons, pumpWritesOf]
      split
      · simp
      · exact ih ((List.mem_cons.1 h).resolve_left fun e => by simp_all)
  rw [List.getLast?_eq_some_getLast ne, key l _ (List.getLast_mem ne)]

/-- A fleet of safe channel units meets the invariant. -/
theorem fleet_inv (c : Controller) (hd : c.DisabledIsOff) (hp : c.PumpOnIsActive) : (fleet c).Inv := by
  refine ⟨by simp [fleet], ?_, ?_, ?_⟩
  · intro b hb
    obtain ⟨-, rfl⟩ := List.mem_replicate.1 hb
    exact hd
  · intro b hb
    obtain ⟨-, rfl⟩ := List.mem_replicate.1 hb
    exact hp
  · intro ch b hb
    obtain ⟨hl, hb⟩ := List.getElem?_eq_some_iff.1 hb
    simp only [fleet, List.length_replicate, List.getElem_replicate] at hl hb
    subst hb
    exact fleet_last_write _ ch _ (List.mem_of_getElem? (channelIndexes_get hl))

theorem witness_EveryStepKeepsInvariant : (fleet watering).Inv ∧ ∃ t, step (fleet watering) = .next t :=
  ⟨fleet_inv _ (fun h => by cases h) (fun _ => ⟨rfl, rfl⟩), _, rfl⟩

theorem witness_ConstructionLeavesResetValues : (0 : Channel).toNat < Config.numChannels := numChannels_pos

theorem witness_DisabledChannelIsOffInEveryRun :
    ∃ t : State, Host.Core.run core 1 { State.reset with pending := [encode (.ctlDisable 0)] } = .next t ∧
      ∃ c ∈ t.channels, c.enabled = false :=
  ⟨_, rfl, _, List.mem_cons_self, rfl⟩

theorem witness_DecodeInvertsEncode : Instr.wf (.reqUnknown 0xFF 9 0x1234) = true := by decide

theorem witness_EncodeInvertsDecode :
    decode ⟨3, .opSel, [0x02]⟩ = .ok (.ctlDisable 3) ∧ Instr.channel? (.ctlDisable 3) = some 3 := ⟨rfl, rfl⟩

theorem witness_StepRunsOldestOperation :
    { two with pending := [⟨0, .opSel, [0x02]⟩, ⟨0, .opSel, [0x0B]⟩] }.pending = [⟨0, .opSel, [0x02]⟩, ⟨0, .opSel, [0x0B]⟩] ∧
    decode ⟨0, .opSel, [0x02]⟩ = .ok (.ctlDisable 0) ∧ decode ⟨0, .opSel, [0x0B]⟩ = .error (.opSelUnassigned 0x0B) :=
  ⟨rfl, rfl, rfl⟩

theorem witness_TableWordRunsNext : decodeTableWord 8 0x02 = some (.ctlDisable 0) := rfl

theorem witness_BoundaryRefusesByName :
    packetLength (0x21 : Byte).toNat = some 5 ∧ decode ⟨0, .opSel, [0x21, 0, 0, 0]⟩ = .error (.packetNotWhole .opSel) ∧
    decode ⟨0, .opSel, [0x21, 0x0A, 0, 0, 0]⟩ = .ok (.codecEncode .setFrequencyResponse 0 0) ∧
    decode ⟨0, .opSel, [0x21, 0xFF, 0, 0, 0]⟩ = .ok (.codecEncode .invalidRequest 0 0) := ⟨rfl, rfl, rfl, rfl⟩

theorem witness_TableWordsThatAreNoOperationAreRefused :
    (8 ≠ 32 ∧ packetLength (0x0B % 2 ^ 8 % 256) = none) ∧
    (16 ≠ 32 ∧ packetLength (0x0B01 % 2 ^ 16 % 256) = some 1 ∧ 1 < byteCount 16) := by decide

theorem witness_UnknownCodesAreOneValue :
    0x0B ≤ (0x0000010B : CommandWord).toNat % 256 ∧ 0x0B ≤ (0x000001FF : CommandWord).toNat % 256 ∧
    (0x0000010B : CommandWord).toNat / 256 = (0x000001FF : CommandWord).toNat / 256 := by decide

theorem witness_EncodeBuildsFrame : 16 ≤ 32 ∧ (0x12345678 : BitVec 32).toNat % 2 ^ 16 = (0x5678 : Value).toNat := by decide

theorem witness_WideValueKeepsLowSixteenBits : 16 ≤ 16 ∧ 16 ≤ 17 := by decide

theorem witness_RequestWordsGiveTheirBundles :
    (0x02000302 : CommandWord).toNat = 0x02 + 2 ^ 8 * (3 : Channel).toNat + 2 ^ 16 * (512 : Value).toNat ∧
    0x0B ≤ (0x0B : Byte).toNat ∧ 0x0B ≤ (0xFF : Byte).toNat ∧
    (0xFFFFFFFF : CommandWord).toNat = (0xFF : Byte).toNat + 2 ^ 8 * (255 : Channel).toNat + 2 ^ 16 * (65535 : Value).toNat := by
  decide

theorem witness_RequestFrameDecodesBack : (0x1388 : Value).toNat = (0x88 : Byte).toNat + 256 * (0x13 : Byte).toNat := by decide

theorem witness_CodecIsPure :
    Instr.isCodec (.reqUnknown 0x0B 0 0) = true ∧ exec (.ctlDisable 1) two = .next (next (.ctlDisable 1) two) := ⟨rfl, rfl⟩

theorem witness_ActivateKeepsTheAnchor : two.timer.running = true := rfl

theorem witness_DeactivateHoldsUntilActivate :
    (one s0).timer.running = false ∧ Instr.ptIsFiring 9000 ≠ .ptActivate ∧
    exec (.ptIsFiring 9000) (one s0) = .next (next (.ptIsFiring 9000) (one s0)) := ⟨rfl, by decide, rfl⟩

theorem witness_TimerPulseLengthReadAndWrite :
    two.timer.running = true ∧ two.timer.frequency.toNat < (5001 : Span).toNat ∧ (0 : Span) = 0 := by decide

theorem witness_TimerFrequencyReadAndWrite :
    two.timer.running = true ∧ (100 : Span).toNat < Claim.elapsed 101 two.timer.lastCycleStart ∧
    0 < two.timer.pulseLength.toNat := by decide

/-- The largest frequency the statement allows, with the pulse as long as the period but one, and three polls across the wrap. -/
theorem witness_UnitPollingGivesASquareWave :
    let p := timerOf true 0xFFFFFFFF 0xFFFFFFFE 0xFFFFFFFE
    let s := { clocked p with
      pending := [encode (.ptIsFiring 0xFFFFFFFF), encode (.ptIsFiring 0), encode (.ptIsFiring 1)] }
    s.timer.running = true ∧ s.timer.pulseLength.toNat ≤ s.timer.frequency.toNat ∧ s.timer.frequency.toNat + 1 < 2 ^ 32 ∧
    s.pending = (List.range 3).map (fun k => encode (.ptIsFiring (s.timer.lastCycleStart + BitVec.ofNat 32 k))) := by decide

/-- Polls at `F` and at `F + 1` units from the anchor. -/
theorem witness_SparsePollingStartsCyclesLate :
    two.timer.running = true ∧ two.timer.lastCycleStart = BitVec.ofNat 32 0 ∧
    5001 < 0 + 2 ^ 32 ∧ ¬ two.timer.frequency.toNat + 1 ≤ 5000 - 0 ∧ two.timer.frequency.toNat + 1 ≤ 5001 - 0 := by decide

theorem witness_ActivePollBoundsTheElapsedTime :
    (exec (.ptIsFiring 9000) (one s0) = .next (next (.ptIsFiring 9000) (one s0)) ∧ (one s0).timer.running = false) ∧
    (exec (.ptIsFiring 5001) two = .next (next (.ptIsFiring 5001) two) ∧ two.timer.running = true) ∧
    (exec (.ctlIsRunning 1 5001) two = .next (next (.ctlIsRunning 1 5001) two) ∧
      ((next (.ctlIsRunning 1 5001) two).channels[1]?).map (fun c => c.pulse.running) = some true) ∧
    (exec (.ctlStep 0 5001 1001) two = .next (next (.ctlStep 0 5001 1001) two) ∧ two.channels[0]? = some s0 ∧
      s0.enabled = true ∧ ((next (.ctlStep 0 5001 1001) two).channels[0]?).map (fun c => c.pulse.running) = some true) :=
  ⟨⟨rfl, rfl⟩, ⟨rfl, rfl⟩, ⟨rfl, rfl⟩, rfl, rfl, rfl, rfl⟩

/-- PT-7, PT-8, PT-9. -/
theorem witness_DegenerateLengthsAreAlwaysOrNever :
    ((timerOf true 0 5000 0).pulseLength = 0 ∧ (timerOf true 0 5000 0).running = true ∧
      (timerOf true 0 5000 0).frequency.toNat < Claim.elapsed 5001 (timerOf true 0 5000 0).lastCycleStart) ∧
    ((timerOf true 100 0 2000).frequency = 0 ∧ (timerOf true 100 0 2000).pulseLength ≠ 0) ∧
    (timerOf true 0 5000 5001).frequency.toNat < (timerOf true 0 5000 5001).pulseLength.toNat := by decide

/-- PT-14, PT-15, PT-16, at the edges of the three ranges of `e`. -/
theorem witness_ReactivationUsesTheStaleAnchor :
    (one s0).timer.running = false ∧
    (5001 = Claim.elapsed 5001 (one s0).timer.lastCycleStart ∧ (one s0).timer.frequency.toNat < 5001) ∧
    (1999 = Claim.elapsed 1999 (one s0).timer.lastCycleStart ∧ 1999 ≤ (one s0).timer.frequency.toNat ∧
      1999 < (one s0).timer.pulseLength.toNat ∧ 1999 + 3001 < 2 ^ 32 ∧ 1999 + 3001 ≤ (one s0).timer.frequency.toNat) ∧
    (2000 = Claim.elapsed 2000 (one s0).timer.lastCycleStart ∧ (one s0).timer.pulseLength.toNat ≤ 2000 ∧
      2000 ≤ (one s0).timer.frequency.toNat ∧ 2000 + (2 ^ 32 - 2001) < 2 ^ 32) := by decide

/-- PT-11: the true times of the anchor and of two polls on both sides of the wrap. -/
theorem witness_CounterWrapChangesNoAnswer :
    let s := clocked (timerOf true 0xFFFFF000 5000 2000)
    s.timer.running = true ∧ s.timer.lastCycleStart = BitVec.ofNat 32 0xFFFFF000 ∧ 0xFFFFF000 ≤ 0xFFFFF400 ∧
    0xFFFFF400 < 0xFFFFF000 + 2 ^ 32 ∧ 0xFFFFF400 ≤ 2 ^ 32 + 0x388 ∧ 2 ^ 32 + 0x388 ≤ 0xFFFFF400 + 0xF88 ∧
    s.timer.frequency.toNat + 0xF88 < 2 ^ 32 := by decide

theorem witness_IdlePollIsFreeOfSideEffects : (one s0).timer.running = false := rfl

/-- A poll at 4999 and the next at 5001 start a cycle; a poll at 1999 and the next at 2000 end the on-time. -/
theorem witness_PollsQuantiseTheCycle :
    two.timer.running = true ∧ two.timer.lastCycleStart = BitVec.ofNat 32 0 ∧ two.timer.frequency.toNat + 2 < 2 ^ 32 ∧
    (4999 - 0 ≤ two.timer.frequency.toNat ∧
      (next (.ptIsFiring (BitVec.ofNat 32 (4999 + 2))) two).timer.lastCycleStart ≠ two.timer.lastCycleStart) ∧
    (1999 - 0 ≤ two.timer.frequency.toNat ∧ 1999 - 0 < two.timer.pulseLength.toNat ∧
      (next (.ptIsFiring (BitVec.ofNat 32 (1999 + 1))) two).results = two.results ++ [.bool false]) := by decide

theorem witness_ControllerStepFollowsItsSteps :
    ((one off).channels[0]? = some off ∧ off.enabled = false) ∧ two.channels[1]? = some watering ∧ watering.enabled = true :=
  ⟨⟨rfl, rfl⟩, rfl, rfl⟩

/-- A clock of 8 bits and a reading of 10. -/
theorem witness_PollAndStepHoldAtEveryWidth :
    let c : ControllerOf 8 :=
      { humidityThreshold := 1000, enabled := true, pulse := ⟨false, 50, 20, 0xF0⟩, pumpOut := .high }
    (⟨true, 50, 20, 0xF0⟩ : PulseTimerOf 8) =
      ⟨decide (c.humidityThreshold.toNat < (1023 : BitVec 10).toNat), c.pulse.frequency, c.pulse.pulseLength,
        c.pulse.lastCycleStart⟩ ∧
    (c.stepped (0x03 : BitVec 8) (1023 : BitVec 10)).2 = true := by decide

theorem witness_EnableHasNoOtherEffect :
    two.channels[1]? = some watering ∧
    (∀ now m, Instr.ctlIsRunning 0 9000 ≠ .ctlStep 0 now m) ∧
    exec (.ctlIsRunning 0 9000) two = .next (next (.ctlIsRunning 0 9000) two) ∧ two.channels[0]? = some s0 ∧
    (next (.ctlIsRunning 0 9000) two).channels[0]? = some s0 ∧ s0.pumpOut = .high ∧ s0.pulse.running = false :=
  ⟨rfl, fun _ _ h => (by cases h), rfl, rfl, rfl, rfl, rfl⟩

theorem witness_DisableForcesThePumpOff : two.channels[1]? = some watering := rfl

theorem witness_ThresholdReadAndWrite : two.channels[0]? = some s0 ∧ (0 : Channel).toNat < Config.numChannels :=
  ⟨rfl, numChannels_pos⟩

theorem witness_GetMoistureIsOneFreshRead : (one off).channels[0]? = some off := rfl

theorem witness_ControllerPulseLengthReadAndWrite :
    two.channels[0]? = some s0 ∧
    (next (.ctlSetPulseLength 0 0) two).channels[0]? = some { s0 with pulse := timerOf false 0 5000 0 } ∧ s0.enabled = true :=
  ⟨rfl, rfl, rfl⟩

theorem witness_ControllerFrequencyReadAndWrite : two.channels[1]? = some watering := rfl

theorem witness_IsRunningPollsWithoutDriving :
    two.channels[1]? = some watering ∧ (fleet off).Inv ∧ (fleet off).channels[(0 : Channel).toNat]? = some off ∧
    off.enabled = false :=
  ⟨rfl, fleet_inv _ (fun _ => ⟨rfl, rfl⟩) (fun h => by cases h), rfl, rfl⟩

/-- The pending operations poll the channel and step another one. -/
theorem witness_PumpHoldsItsLevelAfterAStep :
    let s := { two with pending := [encode (.ctlIsRunning 0 3000), encode (.ctlStep 1 3000 0)] }
    s.channels[0]? = some s0 ∧ s0.enabled = true ∧
    exec (.ctlStep 0 100 1500) s = .next (next (.ctlStep 0 100 1500) s) ∧
    (∀ q ∈ (next (.ctlStep 0 100 1500) s).pending, ∀ i, decode q = .ok i → ¬ Claim.DrivesPump 0 i) ∧
    ∃ u, Host.Core.run core 2 (next (.ctlStep 0 100 1500) s) = .next u := by
  refine ⟨rfl, rfl, rfl, ?_, _, rfl⟩
  intro q hq i hi
  have hp : q ∈ [encode (.ctlIsRunning 0 3000), encode (.ctlStep 1 3000 0)] := hq
  simp only [List.mem_cons, List.not_mem_nil, or_false] at hp
  rcases hp with rfl | rfl
  · have e : i = .ctlIsRunning 0 3000 := by injection hi with hi; exact hi.symm
    subst e
    rintro (h | ⟨_, _, h⟩) <;> cases h
  · have e : i = .ctlStep 1 3000 0 := by injection hi with hi; exact hi.symm
    subst e
    rintro (h | ⟨_, _, h⟩) <;> cases h

/-- CT-14. -/
theorem witness_IsRunningMayDisagreeWithThePump :
    two.channels[0]? = some s0 ∧ s0.enabled = true ∧ s0.humidityThreshold.toNat < 1500 ∧ s0.pulse.frequency = 5000 ∧
    s0.pulse.pulseLength = 2000 ∧ s0.pulse.lastCycleStart = 0 := by decide

theorem witness_EveryOperationCompletes :
    Instr.channel? (.ctlStep 1 0 0) = some 1 ∧ (1 : Channel).toNat < two.channels.length ∧ Instr.channel? .ptActivate = none ∧
    Instr.channel? (.rspPong 0 0) = none := by decide

theorem witness_MissingChannelIsRefused :
    Instr.channel? (.ctlEnable 2) = some 2 ∧ two.channels.length ≤ (2 : Channel).toNat := by decide

theorem witness_OperationsWriteTheirOwnUnit :
    exec (.ctlDisable 1) two = .next (next (.ctlDisable 1) two) ∧ Instr.channel? (.ctlDisable 1) ≠ some 0 ∧
    Instr.channel? (.ptIsFiring 0) = none ∧ exec (.ptIsFiring 0) two = .next (next (.ptIsFiring 0) two) :=
  ⟨rfl, by decide, rfl, rfl⟩

theorem witness_OperationsReadTheirOwnChannel :
    Instr.channel? (.ctlStep 0 100 1500) = some 0 ∧ two.channels[0]? = (one s0).channels[0]? ∧
    exec (.ctlStep 0 100 1500) two = .next (next (.ctlStep 0 100 1500) two) := ⟨rfl, rfl, rfl⟩

theorem witness_OnlyStepAndDisableDriveThePump :
    exec (.ctlStep 0 100 1500) two = .next (next (.ctlStep 0 100 1500) two) ∧ two.channels[0]? = some s0 ∧
    ((next (.ctlStep 0 100 1500) two).channels[0]?).map (·.pumpOut) ≠ some s0.pumpOut :=
  ⟨rfl, rfl, by decide⟩

theorem witness_OnlyPollsMoveTheAnchor :
    (exec (.ptIsFiring 5001) two = .next (next (.ptIsFiring 5001) two) ∧
      (next (.ptIsFiring 5001) two).timer.lastCycleStart ≠ two.timer.lastCycleStart) ∧
    exec (.ctlIsRunning 1 5001) two = .next (next (.ctlIsRunning 1 5001) two) ∧ two.channels[1]? = some watering ∧
    ((next (.ctlIsRunning 1 5001) two).channels[1]?).map (fun c => c.pulse.lastCycleStart) ≠
      some watering.pulse.lastCycleStart :=
  ⟨⟨rfl, by decide⟩, rfl, rfl, by decide⟩

theorem witness_FlagsHaveTheirWritersOnly :
    (exec .ptDeactivate two = .next (next .ptDeactivate two) ∧ (next .ptDeactivate two).timer.running ≠ two.timer.running) ∧
    exec (.ctlDisable 1) two = .next (next (.ctlDisable 1) two) ∧ two.channels[1]? = some watering ∧
    ((next (.ctlDisable 1) two).channels[1]?).map (·.enabled) = some false ∧
    ((next (.ctlDisable 1) two).channels[1]?).map (fun c => c.pulse.running) = some false :=
  ⟨⟨rfl, by decide⟩, rfl, rfl, rfl, rfl⟩

theorem witness_ConfigurationHasItsWritersOnly :
    (exec (.ptSetFrequency 9) two = .next (next (.ptSetFrequency 9) two) ∧ (next (.ptSetFrequency 9) two).timer.frequency = 9) ∧
    (exec (.ptSetPulseLength 9) two = .next (next (.ptSetPulseLength 9) two) ∧
      (next (.ptSetPulseLength 9) two).timer.pulseLength = 9) ∧
    (((next (.ctlSetThreshold 0 9) two).channels[0]?).map (·.humidityThreshold) = some 9 ∧
      ((next (.ctlSetFrequency 0 9) two).channels[0]?).map (fun c => c.pulse.frequency) = some 9 ∧
      ((next (.ctlSetPulseLength 0 9) two).channels[0]?).map (fun c => c.pulse.pulseLength) = some 9) :=
  ⟨⟨rfl, rfl⟩, ⟨rfl, rfl⟩, rfl, rfl, rfl⟩

theorem witness_InputsAreReadByTheirOperationsOnly :
    exec (.ctlStep 0 100 1500) two = .next (next (.ctlStep 0 100 1500) two) ∧ two.channels[0]? = some s0 ∧ s0.enabled = true ∧
    exec (.ctlGetMoisture 0 7) two = .next (next (.ctlGetMoisture 0 7) two) ∧
    exec (.ptIsFiring 7) two = .next (next (.ptIsFiring 7) two) ∧
    exec (.ctlIsRunning 0 7) two = .next (next (.ctlIsRunning 0 7) two) := ⟨rfl, rfl, rfl, rfl, rfl, rfl⟩

theorem witness_WritesAreIdempotent :
    (exec (.ctlDisable 1) two = .next (next (.ctlDisable 1) two)) ∧ exec .ptActivate two = .next (next .ptActivate two) :=
  ⟨rfl, rfl⟩

theorem witness_NothingAdvancesWithoutAnOperation : two.pending = [] := rfl

theorem witness_OperationsRunInTheOrderIssued :
    let rest : List Issue := [⟨0, .opSel, [0x0B]⟩]
    let operations : List Instr := [.ctlDisable 1, .reqUnknown 0x0B 0 0, .ptActivate]
    let s := { two with pending := operations.map encode ++ rest }
    (∀ i ∈ operations, i.wf = true) ∧ (∀ i ∈ operations, ∀ ch, i.channel? = some ch → ch.toNat < s.channels.length) ∧
    s.pending = operations.map encode ++ rest ∧
    operations = [.ctlDisable 1] ++ [.reqUnknown 0x0B 0 0, .ptActivate] := by
  refine ⟨by decide, ?_, rfl, rfl⟩
  intro i hi ch hch
  simp only [List.mem_cons, List.not_mem_nil, or_false] at hi
  rcases hi with rfl | rfl | rfl
  · cases hch; decide
  · cases hch
  · cases hch

end Sys2Proof.Tests
end

section
/-! SUPPORT. The codec against the numbers of the statements: the code maps, the fields of a word and the bytes of a frame; and the
statements about `DECODE` and `ENCODE0` (spec/30_encoding.md R72 to R76, R83, R84; spec/40_codec.md R100, R102). -/

namespace Sys2Proof

/-- A number above the ordinals of the named requests stands for UNKNOWN (R76). -/
theorem requestOfNumber_of_le {n : Nat} (h : 0x0B ≤ n) : Claim.requestOfNumber n = .unknown := by
  have hnone : Claim.requests[n]? = none := List.getElem?_eq_none h
  simp [Claim.requestOfNumber, hnone]

/-- The request of a code byte is the one its number stands for (R74). -/
theorem Request.ofCode_eq_requestOfNumber (code : Byte) : Request.ofCode code = Claim.requestOfNumber code.toNat := by
  by_cases h : 0x0B ≤ code.toNat
  · have hu : unnamedRequestCode code = true := by
      simp only [unnamedRequestCode, decide_eq_true_eq]
      omega
    rw [Request.ofCode_unnamed hu, requestOfNumber_of_le h]
  · unfold Request.ofCode
    generalize code.toNat = n at h ⊢
    interval_cases n <;> rfl

/-- The code byte of a response is its number (R75). -/
@[simp] theorem Response.code_toNat (r : Response) : r.code.toNat = Claim.responseNumber r := by cases r <;> rfl

namespace Machine

/-! ### The fields of a word and of a frame as numbers -/

/-- The request of a word is that of its low byte (R72, R74). -/
theorem decodeWord_request (w : CommandWord) : (decodeWord w).request = Claim.requestOfNumber (w.toNat % 256) := by
  have hcode : (codeField w).toNat = w.toNat % 256 := by simp only [codeField, extract8_toNat, Nat.pow_zero, Nat.div_one]
  rw [← hcode]
  exact Request.ofCode_eq_requestOfNumber (codeField w)

/-- The target of a word is its second byte (R72). -/
theorem decodeWord_target_toNat (w : CommandWord) : (decodeWord w).target.toNat = w.toNat / 2 ^ 8 % 256 :=
  extract8_toNat w 8

/-- The value of a word is its upper half (R72). -/
theorem decodeWord_value_toNat (w : CommandWord) : (decodeWord w).value.toNat = w.toNat / 2 ^ 16 := by
  have hw := w.isLt
  have hjoin : (decodeWord w).value = join16 (w.extractLsb' 16 8) (w.extractLsb' 24 8) := rfl
  rw [hjoin, join16_toNat, extract8_toNat, extract8_toNat]
  omega

/-- Two words that agree above bit 7 and decode to the same request decode to the same bundle (R100). -/
theorem decodeWord_eq_of_upper {w w' : CommandWord} (hupper : w.toNat / 256 = w'.toNat / 256)
    (hrequest : (decodeWord w).request = (decodeWord w').request) : decodeWord w = decodeWord w' := by
  have htarget : (decodeWord w).target = (decodeWord w').target := by
    apply BitVec.eq_of_toNat_eq
    rw [decodeWord_target_toNat, decodeWord_target_toNat]
    omega
  have hvalue : (decodeWord w).value = (decodeWord w').value := by
    apply BitVec.eq_of_toNat_eq
    rw [decodeWord_value_toNat, decodeWord_value_toNat]
    omega
  rw [RequestBundle.mk.injEq]
  exact ⟨hrequest, htarget, hvalue⟩

/-- The bytes of an encoded frame: the code, the target, and the value's low and high byte (R73, R101). -/
theorem encodeFrame_holds (r : Response) (t : Channel) (v : Value) :
    Claim.frameHolds (encodeFrame r t v) (Claim.responseNumber r) t.toNat (v.toNat % 256) (v.toNat / 256) := by
  obtain ⟨hlow, hhigh⟩ := insertFields_value r.code t v
  refine ⟨r.code_toNat, rfl, ?_, ?_⟩
  · rw [encodeFrame, hlow, extract8_toNat, Nat.pow_zero, Nat.div_one]
  · have hv := v.isLt
    rw [encodeFrame, hhigh, extract8_toNat]
    omega

/-! ### The codec instructions as one more result -/

/-- `DECODE` records the word's bundle and changes nothing else (R100). -/
theorem exec_codecDecode (word : CommandWord) (s : State) :
    exec (.codecDecode word) s = .next (s.answer (.bundle (decodeWord word))) := rfl

/-- `ENCODE` records the frame and changes nothing else (R101). -/
theorem exec_codecEncode (r : Response) (t : Channel) (v : Value) (s : State) :
    exec (.codecEncode r t v) s = .next (s.answer (.frame (encodeFrame r t v))) := rfl

/-- `ENCODE0` is `ENCODE` with target 0 and value 0 (R83, R102). -/
theorem exec_codecEncode0 (r : Response) (s : State) : exec (.codecEncode0 r) s = exec (.codecEncode r 0 0) s := rfl

/-! ### The statements -/

/-- Settles O12: the bundle is `decodeWord word`, whose three fields are the numbers of R72. -/
theorem decodeSplitsEveryWord : Obligations.DecodeSplitsEveryWord := fun s word =>
  ⟨decodeWord word, exec_codecDecode word s, decodeWord_request word, decodeWord_target_toNat word, decodeWord_value_toNat word⟩

/-- Settles O13: both requests are UNKNOWN and the fields above bit 7 agree, so the two words have one bundle. -/
theorem unknownCodesAreOneValue : Obligations.UnknownCodesAreOneValue := by
  intro s w w' h h' hupper
  have hw : (decodeWord w).request = .unknown := (decodeWord_request w).trans (requestOfNumber_of_le h)
  have hw' : (decodeWord w').request = .unknown := (decodeWord_request w').trans (requestOfNumber_of_le h')
  have hbundle : decodeWord w = decodeWord w' := decodeWord_eq_of_upper hupper (hw.trans hw'.symm)
  refine ⟨?_, decodeWord w, hw, exec_codecDecode w s⟩
  rw [exec_codecDecode, exec_codecDecode, hbundle]

/-- Settles O16: the frame is that of `ENCODE` at target 0 and value 0. -/
theorem encodeZeroExpandsToEncode : Obligations.EncodeZeroExpandsToEncode := fun s r =>
  ⟨exec_codecEncode0 r s, encodeFrame r 0 (0 : Value), exec_codecEncode r 0 0 s, encodeFrame_holds r 0 0⟩

end Machine

end Sys2Proof
end

section
/-! SUPPORT. What an encoded frame gives back, how an operation stands to the results recorded before it, and the statements about
`ENCODE`'s fields and the codec's purity (spec/40_codec.md R128, R130; spec/10_state.md R22). -/

namespace Sys2Proof.Machine

/-- The last two bytes of an encoded frame, put together, are the value (R128). -/
theorem encodeFrame_value (r : Response) (t : Channel) (v : Value) :
    join16 (encodeFrame r t v).b2 (encodeFrame r t v).b3 = v := by
  obtain ⟨hlow, hhigh⟩ := insertFields_value r.code t v
  rw [encodeFrame, hlow, hhigh, join16_bytes]

/-- An operation that answers next adds one result, and from any other list of results it does the same: no operation reads the
results recorded before it (D20). -/
theorem exec_next_with_results {j : Instr} {s t : State} (h : exec j s = .next t) :
    ∃ r' : Result, t.results = s.results ++ [r'] ∧
      ∀ rs : List Result, exec j { s with results := rs } = .next { t with results := rs ++ [r'] } := by
  obtain ⟨ch, op, c, -, hop, hc, rfl⟩ | ⟨op, -, -, hop, rfl⟩ | ⟨r', -, -, hop, rfl⟩ := exec_next_cases h
  · exact ⟨(op c).result, rfl, fun rs => (hop _).trans (onChannel_of_some op hc)⟩
  · exact ⟨(op s.timer).result, rfl, fun rs => hop _⟩
  · exact ⟨r', rfl, fun rs => hop _⟩

/-- Settles O19: byte 1 is the target by construction, and bytes 2 and 3 put together are the value. -/
theorem encodedFrameGivesTargetAndValueBack : Obligations.EncodedFrameGivesTargetAndValueBack := fun r t v s =>
  ⟨encodeFrame r t v, exec_codecEncode r t v s, rfl, encodeFrame_value r t v⟩

/-- Settles O22: a codec instruction only adds a result, and no operation depends on the results recorded before it. -/
theorem codecIsPure : Obligations.CodecIsPure := by
  intro i hcodec
  obtain ⟨r, hcodecOp⟩ := exec_onCodec hcodec
  refine ⟨r, fun s => ⟨hcodecOp s, fun j t hnext => ?_⟩⟩
  obtain ⟨r', hresults, hafter⟩ := exec_next_with_results hnext
  exact ⟨r', _, hresults, hafter (s.results ++ [r]), by rw [List.append_assoc, List.singleton_append]⟩

end Sys2Proof.Machine
end

section
/-! SUPPORT. The poll against the arithmetic of the statements, each timer instruction as one equation, and the statements about the
timer's states, `PT.ACTIVATE` and `PT.IS_FIRING` (spec/41_pulse_timer.md R140 to R147). -/

namespace Sys2Proof.Machine

/-! ### Activation -/

/-- Activating an Active timer writes nothing (R141). -/
theorem PulseTimerOf.activate_of_running {ts : Nat} {p : PulseTimerOf ts} (h : p.running = true) : p.activate = p := by
  rw [PulseTimerOf.activate, ← h]

/-! ### The poll as arithmetic modulo the width of the counter -/

section Poll

variable {ts : Nat} (p : PulseTimerOf ts) (now : BitVec ts)

/-- The comparison of R143 step 2 is the one on elapsed times modulo `2^ts`. -/
theorem cycleOver_elapsed (anchor : BitVec ts) (frequency : Span) :
    cycleOver (elapsed now anchor) frequency = decide (frequency.toNat < Claim.elapsed now anchor) := by
  rw [cycleOver, elapsed_toNat, Claim.elapsed]

/-- The comparison of R143 step 3 is the one on elapsed times modulo `2^ts`. -/
theorem withinPulse_elapsed (anchor : BitVec ts) (pulseLength : Span) :
    withinPulse (elapsed now anchor) pulseLength = decide (Claim.elapsed now anchor < pulseLength.toNat) := by
  rw [withinPulse, elapsed_toNat, Claim.elapsed]

/-- The anchor a poll leaves is that of R143 step 2. -/
theorem PulseTimerOf.reanchor_lastCycleStart_eq_anchorAfter :
    (p.reanchor now).lastCycleStart = Claim.anchorAfter p now := by
  simp only [PulseTimerOf.reanchor_lastCycleStart, cycleOver_elapsed, Claim.anchorAfter, Bool.and_eq_true, decide_eq_true_eq]

/-- A poll leaves the timer of R143 step 2: its anchor is all that may have moved. -/
theorem PulseTimerOf.reanchor_eq_polled : p.reanchor now = Claim.polled p now := by
  rw [Claim.polled, PulseTimerOf.mk.injEq]
  exact ⟨p.reanchor_running now, p.reanchor_frequency now, p.reanchor_pulseLength now,
    p.reanchor_lastCycleStart_eq_anchorAfter now⟩

/-- A poll answers by R143 step 3, from the anchor of step 2. -/
theorem PulseTimerOf.reanchor_firesAt_eq_fires : (p.reanchor now).firesAt now = Claim.fires p now := by
  rw [PulseTimerOf.firesAt, withinPulse_elapsed, PulseTimerOf.reanchor_running, PulseTimerOf.reanchor_pulseLength,
    PulseTimerOf.reanchor_lastCycleStart_eq_anchorAfter, Claim.fires, Bool.decide_and, Bool.decide_eq_true]

/-- A poll keeps the anchor or, on an Active timer alone, moves it to `now` (R140, R143). -/
theorem PulseTimerOf.reanchor_lastCycleStart_cases :
    (p.reanchor now).lastCycleStart = p.lastCycleStart ∨ (p.running = true ∧ (p.reanchor now).lastCycleStart = now) := by
  cases hrun : p.running with
  | false => exact .inl (by rw [PulseTimerOf.reanchor_idle hrun])
  | true =>
    rw [PulseTimerOf.reanchor_lastCycleStart]
    split
    · exact .inr ⟨rfl, rfl⟩
    · exact .inl rfl

end Poll

/-! ### The timer instructions as equations -/

/-- An operation on the timer that reads no input leaves the trace as it is. -/
theorem onTimer_of_no_events {s : State} {op : PulseTimer → Reply PulseTimer} (h : (op s.timer).events = []) :
    onTimer op s = .next ((s.setTimer (op s.timer).unit).answer (op s.timer).result) := by
  simp only [onTimer, h, State.emit, List.append_nil]

/-- `PT.ACTIVATE` (R141). -/
theorem exec_ptActivate (s : State) : exec .ptActivate s = .next ((s.setTimer s.timer.activate).answer .none) :=
  (execPtActivate.eq_1 s).trans (onTimer_of_no_events rfl)

/-- `PT.DEACTIVATE` (R142). -/
theorem exec_ptDeactivate (s : State) : exec .ptDeactivate s = .next ((s.setTimer s.timer.deactivate).answer .none) :=
  (execPtDeactivate.eq_1 s).trans (onTimer_of_no_events rfl)

/-- `PT.IS_FIRING` (R143) reads the clock once, whatever the state of the timer. -/
theorem exec_ptIsFiring (now : Timestamp) (s : State) :
    exec (.ptIsFiring now) s =
      .next (((s.setTimer (s.timer.reanchor now)).emit [.clockRead .timer now]).answer
        (.bool ((s.timer.reanchor now).firesAt now))) := rfl

/-- `PT.GET_PULSE_LENGTH` (R144). -/
theorem exec_ptGetPulseLength (s : State) : exec .ptGetPulseLength s = .next (s.answer (.word s.timer.pulseLength)) :=
  (execPtGetPulseLength.eq_1 s).trans (onTimer_of_no_events rfl)

/-- `PT.SET_PULSE_LENGTH` (R145). -/
theorem exec_ptSetPulseLength (v : Span) (s : State) :
    exec (.ptSetPulseLength v) s = .next ((s.setTimer { s.timer with pulseLength := v }).answer .none) :=
  (execPtSetPulseLength.eq_1 v s).trans (onTimer_of_no_events rfl)

/-- `PT.GET_FREQUENCY` (R146). -/
theorem exec_ptGetFrequency (s : State) : exec .ptGetFrequency s = .next (s.answer (.word s.timer.frequency)) :=
  (execPtGetFrequency.eq_1 s).trans (onTimer_of_no_events rfl)

/-- `PT.SET_FREQUENCY` (R147). -/
theorem exec_ptSetFrequency (v : Span) (s : State) :
    exec (.ptSetFrequency v) s = .next ((s.setTimer { s.timer with frequency := v }).answer .none) :=
  (execPtSetFrequency.eq_1 v s).trans (onTimer_of_no_events rfl)

/-! ### The statements -/

/-- Settles O23, row by row of R140's table: each instruction's equation gives the next state, and only the poll's anchor has two
cases. -/
theorem timerStatesAndTransitions : Obligations.TimerStatesAndTransitions := by
  refine ⟨rfl, fun s => ⟨?activate, ?deactivate, fun now => ?poll, fun i hi => ?accessors⟩⟩
  case activate => exact ⟨_, exec_ptActivate s, rfl, rfl⟩
  case deactivate => exact ⟨_, exec_ptDeactivate s, rfl, rfl⟩
  case poll =>
    exact ⟨_, exec_ptIsFiring now s, s.timer.reanchor_running now, s.timer.reanchor_lastCycleStart_cases now⟩
  case accessors =>
    obtain rfl | rfl | ⟨v, rfl⟩ | ⟨v, rfl⟩ := hi
    · exact ⟨_, exec_ptGetPulseLength s, rfl, rfl⟩
    · exact ⟨_, exec_ptGetFrequency s, rfl, rfl⟩
    · exact ⟨_, exec_ptSetPulseLength v s, rfl, rfl⟩
    · exact ⟨_, exec_ptSetFrequency v s, rfl, rfl⟩

/-- Settles O24: `activate` writes `running` alone, and on an Active timer it writes nothing. -/
theorem activateKeepsTheAnchor : Obligations.ActivateKeepsTheAnchor := by
  intro s
  refine ⟨exec_ptActivate s, fun hrun => ?_⟩
  rw [exec_ptActivate, PulseTimerOf.activate_of_running hrun]
  rfl

/-- Settles O26: the model's modular subtraction and comparisons are those of R143 on numbers. -/
theorem isFiringFollowsItsSteps : Obligations.IsFiringFollowsItsSteps := by
  intro s now
  rw [exec_ptIsFiring, PulseTimerOf.reanchor_firesAt_eq_fires, PulseTimerOf.reanchor_eq_polled]
  rfl

end Sys2Proof.Machine
end

section
/-! SUPPORT. Each controller instruction as one equation, what an instruction can do to a channel's pump and timer state, and the
statements about the controller operations (spec/42_controller.md R173 to R183; spec/60_exceptions.md R200). -/

namespace Sys2Proof.Machine

/-! ### The controller instructions as equations -/

/-- An operation on a channel that has no input or output leaves the trace as it is. -/
theorem onChannel_of_no_events {s : State} {ch : Channel} {c : Controller} {op : Controller → Reply Controller}
    (hc : s.channels[ch.toNat]? = some c) (h : (op c).events = []) :
    onChannel ch op s = .next ((s.setChannel ch (op c).unit).answer (op c).result) := by
  rw [onChannel_of_some op hc, h, State.emit, List.append_nil]

/-- An operation on a channel that keeps the record changes no register. -/
theorem onChannel_of_same_unit {s : State} {ch : Channel} {c : Controller} {op : Controller → Reply Controller}
    (hc : s.channels[ch.toNat]? = some c) (h : (op c).unit = c) :
    onChannel ch op s = .next ((s.emit (op c).events).answer (op c).result) := by
  rw [onChannel_of_some op hc, h, State.setChannel_self hc]

/-- An operation on a channel that keeps the record and has no input or output only adds its result. -/
theorem onChannel_of_pure_read {s : State} {ch : Channel} {c : Controller} {op : Controller → Reply Controller}
    (hc : s.channels[ch.toNat]? = some c) (hu : (op c).unit = c) (he : (op c).events = []) :
    onChannel ch op s = .next (s.answer (op c).result) := by
  rw [onChannel_of_no_events hc he, hu, State.setChannel_self hc]

section Equations

variable {s : State} {ch : Channel} {c : Controller} (hc : s.channels[ch.toNat]? = some c)
include hc

/-- An enabled `CTL.STEP` (R170): the sensor, the clock, and then the pump. -/
theorem exec_ctlStep_of_enabled (now : Timestamp) (m : Moisture) (he : c.enabled = true) :
    exec (.ctlStep ch now m) s =
      .next (((s.setChannel ch (c.stepped now m).1).emit
        [.sensorRead ch m, .clockRead (.channel ch) now, .pumpWrite ch (pumpLevel (c.stepped now m).2)]).answer
        (.bool (c.stepped now m).2)) := by
  refine (onChannel_of_some _ hc).trans ?_
  simp only [he, if_true, Controller.poll]

/-- `CTL.ENABLE` (R173). -/
theorem exec_ctlEnable : exec (.ctlEnable ch) s = .next ((s.setChannel ch { c with enabled := true }).answer .none) :=
  onChannel_of_no_events hc rfl

/-- `CTL.DISABLE` (R174). -/
theorem exec_ctlDisable :
    exec (.ctlDisable ch) s =
      .next (((s.setChannel ch { c with enabled := false, pumpOut := .high, pulse := c.pulse.deactivate }).emit
        [.pumpWrite ch .high]).answer .none) :=
  onChannel_of_some _ hc

/-- `CTL.GET_THRESHOLD` (R175). -/
theorem exec_ctlGetThreshold : exec (.ctlGetThreshold ch) s = .next (s.answer (.half c.humidityThreshold)) :=
  onChannel_of_pure_read hc rfl rfl

/-- `CTL.SET_THRESHOLD` (R176). -/
theorem exec_ctlSetThreshold (v : Threshold) :
    exec (.ctlSetThreshold ch v) s = .next ((s.setChannel ch { c with humidityThreshold := v }).answer .none) :=
  onChannel_of_no_events hc rfl

/-- `CTL.GET_MOISTURE` (R177). -/
theorem exec_ctlGetMoisture (m : Moisture) :
    exec (.ctlGetMoisture ch m) s = .next ((s.emit [.sensorRead ch m]).answer (.moisture m)) :=
  onChannel_of_same_unit hc rfl

/-- `CTL.GET_PULSE_LENGTH` (R178). -/
theorem exec_ctlGetPulseLength : exec (.ctlGetPulseLength ch) s = .next (s.answer (.word c.pulse.pulseLength)) :=
  onChannel_of_pure_read hc rfl rfl

/-- `CTL.SET_PULSE_LENGTH` (R179). -/
theorem exec_ctlSetPulseLength (v : Span) :
    exec (.ctlSetPulseLength ch v) s =
      .next ((s.setChannel ch { c with pulse := { c.pulse with pulseLength := v } }).answer .none) :=
  onChannel_of_no_events hc rfl

/-- `CTL.GET_FREQUENCY` (R180). -/
theorem exec_ctlGetFrequency : exec (.ctlGetFrequency ch) s = .next (s.answer (.word c.pulse.frequency)) :=
  onChannel_of_pure_read hc rfl rfl

/-- `CTL.SET_FREQUENCY` (R181). -/
theorem exec_ctlSetFrequency (v : Span) :
    exec (.ctlSetFrequency ch v) s =
      .next ((s.setChannel ch { c with pulse := { c.pulse with frequency := v } }).answer .none) :=
  onChannel_of_no_events hc rfl

/-- `CTL.IS_RUNNING` (R182) is the poll of R143 on the channel's timer, whatever `enabled` is. -/
theorem exec_ctlIsRunning (now : Timestamp) :
    exec (.ctlIsRunning ch now) s =
      .next (((s.setChannel ch { c with pulse := c.pulse.reanchor now }).emit [.clockRead (.channel ch) now]).answer
        (.bool ((c.pulse.reanchor now).firesAt now))) :=
  onChannel_of_some _ hc

end Equations

/-! ### What the operations keep -/

/-- An operation that is neither a step nor a disable of its channel keeps the channel's pump level and the state of its timer
(10_state.md R23, R31). -/
theorem ctlOp_keeps_drive {i : Instr} {ch : Channel} {op : Controller → Reply Controller} (hi : i.channel? = some ch)
    (ho : ∀ s, exec i s = onChannel ch op s) (hdrive : ¬ Claim.DrivesPump ch i) (c : Controller) :
    (op c).unit.pumpOut = c.pumpOut ∧ (op c).unit.pulse.running = c.pulse.running := by
  cases i <;> simp only [Instr.channel?, Option.some.injEq, reduceCtorEq] at hi <;> subst hi <;>
    obtain rfl := onChannel_inj ho
  case ctlStep now m => exact absurd (.inr ⟨now, m, rfl⟩) hdrive
  case ctlDisable => exact absurd (.inl rfl) hdrive
  case ctlEnable | ctlGetMoisture | ctlGetThreshold | ctlSetThreshold | ctlGetPulseLength | ctlSetPulseLength
      | ctlGetFrequency | ctlSetFrequency => exact ⟨rfl, rfl⟩
  case ctlIsRunning now => exact ⟨rfl, c.pulse.reanchor_running now⟩

/-- An instruction that is no step of a channel keeps its pump off and its timer Idle (R173). -/
theorem exec_keeps_off {i : Instr} {s t : State} {ch : Channel} {c c' : Controller} (hstep : ∀ now m, i ≠ .ctlStep ch now m)
    (h : exec i s = .next t) (hc : s.channels[ch.toNat]? = some c) (hc' : t.channels[ch.toNat]? = some c')
    (hpump : c.pumpOut = .high) (hrun : c.pulse.running = false) : c'.pumpOut = .high ∧ c'.pulse.running = false := by
  obtain rfl | ⟨op, hi, ho, rfl⟩ := exec_channel_cases h hc hc'
  · exact ⟨hpump, hrun⟩
  · by_cases hdrive : Claim.DrivesPump ch i
    · obtain rfl | ⟨now, m, rfl⟩ := hdrive
      · obtain rfl := onChannel_inj ho
        exact ⟨rfl, rfl⟩
      · exact absurd rfl (hstep now m)
    · obtain ⟨hpump', hrun'⟩ := ctlOp_keeps_drive hi ho hdrive c
      exact ⟨hpump'.trans hpump, hrun'.trans hrun⟩

/-- A timer whose pulse length is 0 never fires (R143 step 3, R179). -/
theorem PulseTimerOf.firesAt_of_pulseLength_zero {ts : Nat} {p : PulseTimerOf ts} (h : p.pulseLength = 0) (now : BitVec ts) :
    p.firesAt now = false := by
  simp [PulseTimerOf.firesAt, withinPulse, h]

/-- An enabled step of a channel whose pulse length is 0 answers false (R179). -/
theorem ControllerOf.stepped_snd_of_pulseLength_zero {ts ms : Nat} {c : ControllerOf ts} (h : c.pulse.pulseLength = 0)
    (now : BitVec ts) (m : BitVec ms) : (c.stepped now m).2 = false := by
  have hlength : ((c.armed m).reanchor now).pulseLength = 0 := by simpa using h
  rw [ControllerOf.stepped_snd, PulseTimerOf.firesAt_of_pulseLength_zero hlength]

/-- An operation that reads, after one that wrote the channel's record, finds what was written and changes no register. -/
theorem exec_read_after_write {s : State} {ch : Channel} {c c' : Controller} {i : Instr} {r : Result}
    (hc : s.channels[ch.toNat]? = some c)
    (hread : ∀ {t : State}, t.channels[ch.toNat]? = some c' → exec i t = .next (t.answer r)) :
    exec i ((s.setChannel ch c').answer .none) =
      .next { (s.setChannel ch c').answer .none with results := s.results ++ [.none, r] } := by
  have hwritten : ((s.setChannel ch c').answer .none).channels[ch.toNat]? = some c' := State.setChannel_same hc
  rw [hread hwritten, State.answer, State.answer_results, State.setChannel_results, List.append_assoc, List.singleton_append]

/-- A channel unit after construction (70_reset_and_hazards.md R230). -/
theorem State.reset_channel {ch : Channel} (h : ch.toNat < Config.numChannels) :
    State.reset.channels[ch.toNat]? = some (ControllerOf.reset (Config.now0 ch)) := by
  simp [State.reset, channelIndexes_get h]

/-! ### The statements -/

/-- Settles O38: the equations of `CTL.ENABLE` and `CTL.DISABLE` give the next states, and `exec_keeps_off` is the step lemma. -/
theorem enableHasNoOtherEffect : Obligations.EnableHasNoOtherEffect := by
  refine ⟨fun s ch c hc => ⟨exec_ctlEnable hc, ?_⟩, fun s t ch i c c' => exec_keeps_off⟩
  have hdisabled := State.setChannel_same (c' := { c with enabled := false, pumpOut := .high, pulse := c.pulse.deactivate }) hc
  exact ⟨_, _, exec_ctlDisable hc, exec_ctlEnable hdisabled, State.setChannel_same hdisabled⟩

/-- Settles O42: the get after the set reads the record the set wrote, and within a pulse of length 0 there is no time. -/
theorem controllerPulseLengthReadAndWrite : Obligations.ControllerPulseLengthReadAndWrite := by
  intro s ch c arg hc
  refine ⟨exec_ctlGetPulseLength hc, _, exec_ctlSetPulseLength hc arg, rfl, exec_read_after_write hc exec_ctlGetPulseLength, ?_⟩
  intro u d now m hd henabled hzero
  have hoff : (d.stepped now m).2 = false := ControllerOf.stepped_snd_of_pulseLength_zero hzero now m
  refine ⟨_, exec_ctlStep_of_enabled hd now m henabled, ?results, ?pumpWrites⟩
  case results => rw [hoff]; rfl
  case pumpWrites =>
    simp only [State.answer_trace, State.emit_trace, State.setChannel_trace, pumpWritesOf_append, hoff, pumpLevel_false,
      pumpWritesOf, if_true]

/-- Settles O44: the poll is that of R143 on numbers, and the invariant makes a disabled channel's timer Idle, which a poll neither
moves nor finds firing. -/
theorem isRunningPollsWithoutDriving : Obligations.IsRunningPollsWithoutDriving := by
  intro s ch now c hc
  rw [← PulseTimerOf.reanchor_eq_polled, ← PulseTimerOf.reanchor_firesAt_eq_fires]
  refine ⟨exec_ctlIsRunning hc now, fun hinv hdisabled => ?_⟩
  obtain ⟨hidle, -⟩ := hinv.disabledIsOff c (List.mem_of_getElem? hc) hdisabled
  rw [PulseTimerOf.reanchor_idle hidle, PulseTimerOf.firesAt, hidle, Bool.false_and]
  exact ⟨rfl, rfl⟩

/-- Settles O47: an instruction is one operation on a channel unit that exists, on the standalone timer, or on the codec, and each
of these answers next with one reply. -/
theorem everyOperationCompletes : Obligations.EveryOperationCompletes := by
  intro i s hexists
  cases hch : i.channel? with
  | some ch =>
    obtain ⟨op, hop⟩ := exec_onChannel hch
    have hc := List.getElem?_eq_getElem (hexists ch hch)
    exact ⟨_, _, _, (hop s).trans (onChannel_of_some op hc), rfl, rfl, rfl⟩
  | none =>
    cases hcodec : i.isCodec with
    | true =>
      obtain ⟨r, hop⟩ := exec_onCodec hcodec
      exact ⟨_, r, [], hop s, rfl, (List.append_nil _).symm, rfl⟩
    | false =>
      obtain ⟨op, hop⟩ := exec_onTimer hch hcodec
      exact ⟨_, _, _, hop s, rfl, rfl, rfl⟩

/-- Settles O39: the equation of `CTL.DISABLE`, with the fields of the next state written out. -/
theorem disableForcesThePumpOff : Obligations.DisableForcesThePumpOff := fun _ _ _ hc => exec_ctlDisable hc

/-- Settles O40: the get reads the record reset constructed, or the one the set wrote. -/
theorem thresholdReadAndWrite : Obligations.ThresholdReadAndWrite := by
  intro s ch c arg hc
  have hreset (hch : ch.toNat < Config.numChannels) := exec_ctlGetThreshold (State.reset_channel hch)
  exact ⟨exec_ctlGetThreshold hc, hreset, _, exec_ctlSetThreshold hc arg, rfl, exec_read_after_write hc exec_ctlGetThreshold⟩

/-- Settles O41: the equation of `CTL.GET_MOISTURE`, in which `enabled` does not occur. -/
theorem getMoistureIsOneFreshRead : Obligations.GetMoistureIsOneFreshRead := fun _ _ m _ hc => exec_ctlGetMoisture hc m

/-- Settles O43: the get after the set reads the record the set wrote. -/
theorem controllerFrequencyReadAndWrite : Obligations.ControllerFrequencyReadAndWrite := by
  intro s ch c arg hc
  exact ⟨exec_ctlGetFrequency hc, _, exec_ctlSetFrequency hc arg, rfl, exec_read_after_write hc exec_ctlGetFrequency⟩

end Sys2Proof.Machine
end

section
/-! SUPPORT. Values wider than a frame's field, packed words as numbers, the request and response rows, and the statements about the
codec's formulas and rows (spec/30_encoding.md R71 to R75; spec/40_codec.md R101 to R129). -/

namespace Sys2Proof

/-! ### Frames and words as numbers -/

/-- Two frames that hold the same four numbers are one frame. -/
theorem Frame.eq_of_frameHolds {f f' : Frame} {n0 n1 n2 n3 : Nat} (h : Claim.frameHolds f n0 n1 n2 n3)
    (h' : Claim.frameHolds f' n0 n1 n2 n3) : f = f' := by
  obtain ⟨e0, e1, e2, e3⟩ := h
  obtain ⟨e0', e1', e2', e3'⟩ := h'
  rw [Frame.mk.injEq]
  exact ⟨BitVec.eq_of_toNat_eq (e0.trans e0'.symm), BitVec.eq_of_toNat_eq (e1.trans e1'.symm),
    BitVec.eq_of_toNat_eq (e2.trans e2'.symm), BitVec.eq_of_toNat_eq (e3.trans e3'.symm)⟩

/-- Unpacking a packed frame gives it back (R71). -/
@[simp] theorem Frame.unpack_pack (f : Frame) : Frame.unpack f.pack = f := by
  obtain ⟨h0, h1, h2, h3⟩ := join32_byte f.b0 f.b1 f.b2 f.b3
  rw [Frame.mk.injEq]
  exact ⟨h0, h1, h2, h3⟩

/-- Packing an unpacked word gives it back (R71). -/
@[simp] theorem Frame.pack_unpack (w : CommandWord) : (Frame.unpack w).pack = w := join32_bytes w

/-- The canonical code of a request names it (R77, D5). -/
@[simp] theorem Request.ofCode_code (q : Request) : Request.ofCode q.code = q := by cases q <;> rfl

namespace Machine

/-- Masking a value of 8 bits or more with 0xFF gives its low byte (R73). -/
theorem mask_byte_toNat {w : Nat} (hw : 8 ≤ w) (v : BitVec w) : ((v &&& 0xFF).setWidth 8).toNat = v.toNat % 256 := by
  have hpow : 2 ^ 8 ≤ 2 ^ w := Nat.pow_le_pow_right (by decide) hw
  have hmask : (0xFF : BitVec w).toNat = 2 ^ 8 - 1 :=
    (BitVec.toNat_ofNat 0xFF w).trans (Nat.mod_eq_of_lt (by omega))
  rw [BitVec.toNat_setWidth, BitVec.toNat_and, hmask, Nat.and_two_pow_sub_one_eq_mod, Nat.mod_mod]

/-- `ENCODE` of a value of 16 bits or more keeps its bits 15:0 (R73, D7). -/
theorem encodeFrame_wide_holds {w : Nat} (hw : 16 ≤ w) (r : Response) (t : Channel) (v : BitVec w) :
    Claim.frameHolds (encodeFrame r t v) (Claim.responseNumber r) t.toNat (v.toNat % 256) (v.toNat / 256 % 256) := by
  refine ⟨r.code_toNat, rfl, mask_byte_toNat (by omega) v, ?_⟩
  have hhigh := mask_byte_toNat (by omega : 8 ≤ w) (v >>> 8)
  rwa [BitVec.toNat_ushiftRight, Nat.shiftRight_eq_div_pow] at hhigh

/-- `DECODE` of a packed frame: its code byte's request, its target, and its value bytes put together (R72, R103). -/
theorem decodeWord_pack (f : Frame) : decodeWord f.pack = ⟨Request.ofCode f.b0, f.b1, join16 f.b2 f.b3⟩ := by
  obtain ⟨h0, h1, h2, h3⟩ := join32_byte f.b0 f.b1 f.b2 f.b3
  simp only [decodeWord, codeField, targetField, valueField, Frame.pack, h0, h1, h2, h3]
  rfl

/-- The value bytes of a request frame, put together, are its value (R70, R103). -/
theorem insertFields_join (code : Byte) (t : Channel) (v : Value) :
    join16 (insertFields code t v).b2 (insertFields code t v).b3 = v := by
  obtain ⟨hlow, hhigh⟩ := insertFields_value code t v
  rw [hlow, hhigh, join16_bytes]

/-- The word of a request frame as a number (R70, R71). -/
theorem requestWord_toNat (code : Byte) (t : Channel) (v : Value) :
    (requestWord code t v).toNat = code.toNat + 2 ^ 8 * t.toNat + 2 ^ 16 * v.toNat := by
  have hjoin := congrArg BitVec.toNat (insertFields_join code t v)
  rw [join16_toNat] at hjoin
  have hpack : (requestWord code t v).toNat = code.toNat + 256 * t.toNat + 65536 * (insertFields code t v).b2.toNat +
      16777216 * (insertFields code t v).b3.toNat := join32_toNat ..
  omega

/-! ### The rows -/

/-- A row that executes as `DECODE` of the word with a code byte, and that the decoder names by that byte, gives the bundle of the
byte's request (40_codec.md section 2). -/
theorem requestRowGives_of (code : Byte) {row : Channel → Value → Instr}
    (hexec : ∀ t v s, exec (row t v) s = onCodec (.bundle (decodeWord (requestWord code t v))) s)
    (hrow : ∀ t v, requestRow code t v = row t v) :
    Claim.requestRowGives code.toNat (Request.ofCode code) row := by
  intro s t v word hword
  obtain rfl : word = requestWord code t v := BitVec.eq_of_toNat_eq (hword.trans (requestWord_toNat code t v).symm)
  have hbundle := decodeWord_requestWord code t v
  refine ⟨?row, ?decode, ?port⟩
  case row => rw [hexec, hbundle]; rfl
  case decode => rw [exec_codecDecode, hbundle]; rfl
  case port =>
    rw [requestWord, Frame.unpack_pack, ← hrow]
    exact congrArg (fun x => Except.ok (requestRow code t x)) (insertFields_join code t v)

/-- The packed frame of `ENCODE` decodes to the request at the response's position (R129). -/
theorem decodeWord_encodeFrame_pack (r : Response) (t : Channel) (v : Value) :
    decodeWord (encodeFrame r t v).pack = ⟨Claim.requestOfNumber (Claim.responseNumber r), t, v⟩ := by
  rw [← r.code_toNat, ← Request.ofCode_eq_requestOfNumber]
  exact decodeWord_requestWord r.code t v

/-- A row that executes as `ENCODE` of a response, and that the encode input names by that response, gives the response's frame
(40_codec.md section 3). -/
theorem responseRowGives_of (r : Response) {row : Channel → Value → Instr}
    (hexec : ∀ t v s, exec (row t v) s = onCodec (.frame (encodeFrame r t v)) s)
    (hrow : ∀ t v, responseRow r t v = row t v) :
    Claim.responseRowGives r (Claim.responseNumber r) (Claim.requestOfNumber (Claim.responseNumber r)) row := by
  intro s t v
  refine ⟨encodeFrame r t v, encodeFrame_holds r t v, hexec t v s, exec_codecEncode r t v s, ?port, ?mirror⟩
  case port =>
    have hcode : Response.ofCode (encodeFrame r t v).b0 = some r := r.ofCode_code
    simp only [decode, Frame.bytes, decodeResponse, hcode, encodeFrame_value, ← hrow]
    rfl
  case mirror => rw [exec_codecDecode, decodeWord_encodeFrame_pack]; rfl

/-! ### The statements -/

/-- Settles O11: the two maps are `join32` and the four byte fields, whose numbers are known. -/
theorem packAndUnpackAreInverse : Obligations.PackAndUnpackAreInverse := by
  refine ⟨fun f => join32_toNat f.b0 f.b1 f.b2 f.b3, fun w => ?_, Frame.unpack_pack, Frame.pack_unpack⟩
  have hcode := extract8_toNat w 0
  rw [Nat.pow_zero, Nat.div_one] at hcode
  exact ⟨hcode, extract8_toNat w 8, extract8_toNat w 16, extract8_toNat w 24⟩

/-- Settles O15: both frames hold the same four numbers. -/
theorem wideValueKeepsLowSixteenBits : Obligations.WideValueKeepsLowSixteenBits := by
  intro w r t v hw
  have hwide := encodeFrame_wide_holds hw r t v
  refine ⟨Frame.eq_of_frameHolds hwide ?_, hwide⟩
  have hnarrow := encodeFrame_holds r t (v.setWidth 16)
  rw [BitVec.toNat_setWidth] at hnarrow
  rwa [show v.toNat % 256 = v.toNat % 2 ^ 16 % 256 by omega, show v.toNat / 256 % 256 = v.toNat % 2 ^ 16 / 256 by omega]

/-- Settles O14: `ENCODE` adds its frame, and a wider value gives the frame of its low 16 bits. -/
theorem encodeBuildsFrame : Obligations.EncodeBuildsFrame := by
  intro s r t v
  refine ⟨encodeFrame r t v, exec_codecEncode r t v s, encodeFrame_holds r t v, fun w wide hw hlow => ?_⟩
  have hv : wide.setWidth 16 = v := BitVec.eq_of_toNat_eq ((BitVec.toNat_setWidth 16 wide).trans hlow)
  rw [(wideValueKeepsLowSixteenBits w r t wide hw).1, hv]

/-- Settles O17, row by row: each row is `DECODE` of the word with its code, and a code from 0x0B is of the row REQ_UNKNOWN. -/
theorem requestWordsGiveTheirBundles : Obligations.RequestWordsGiveTheirBundles := by
  refine ⟨requestRowGives_of 0x00 (fun _ _ _ => rfl) fun _ _ => rfl,
    requestRowGives_of 0x01 (fun _ _ _ => rfl) fun _ _ => rfl,
    requestRowGives_of 0x02 (fun _ _ _ => rfl) fun _ _ => rfl,
    requestRowGives_of 0x03 (fun _ _ _ => rfl) fun _ _ => rfl,
    requestRowGives_of 0x04 (fun _ _ _ => rfl) fun _ _ => rfl,
    requestRowGives_of 0x05 (fun _ _ _ => rfl) fun _ _ => rfl,
    requestRowGives_of 0x06 (fun _ _ _ => rfl) fun _ _ => rfl,
    requestRowGives_of 0x07 (fun _ _ _ => rfl) fun _ _ => rfl,
    requestRowGives_of 0x08 (fun _ _ _ => rfl) fun _ _ => rfl,
    requestRowGives_of 0x09 (fun _ _ _ => rfl) fun _ _ => rfl,
    requestRowGives_of 0x0A (fun _ _ _ => rfl) fun _ _ => rfl,
    fun code hcode => ?_⟩
  have hunnamed : unnamedRequestCode code = true := decide_eq_true hcode
  rw [← Request.ofCode_unnamed hunnamed]
  exact requestRowGives_of code (fun _ _ _ => rfl) (requestRow_unnamed hunnamed)

/-- Settles O18, row by row: each row is `ENCODE` of its response. -/
theorem responsesGiveTheirFrames : Obligations.ResponsesGiveTheirFrames :=
  ⟨responseRowGives_of .pong (fun _ _ _ => rfl) fun _ _ => rfl,
    responseRowGives_of .moistureResponse (fun _ _ _ => rfl) fun _ _ => rfl,
    responseRowGives_of .setThresholdResponse (fun _ _ _ => rfl) fun _ _ => rfl,
    responseRowGives_of .pulseLengthResponse (fun _ _ _ => rfl) fun _ _ => rfl,
    responseRowGives_of .setPulseLengthResponse (fun _ _ _ => rfl) fun _ _ => rfl,
    responseRowGives_of .isRunning (fun _ _ _ => rfl) fun _ _ => rfl,
    responseRowGives_of .thresholdResponse (fun _ _ _ => rfl) fun _ _ => rfl,
    responseRowGives_of .enableResponse (fun _ _ _ => rfl) fun _ _ => rfl,
    responseRowGives_of .disableResponse (fun _ _ _ => rfl) fun _ _ => rfl,
    responseRowGives_of .frequencyResponse (fun _ _ _ => rfl) fun _ _ => rfl,
    responseRowGives_of .setFrequencyResponse (fun _ _ _ => rfl) fun _ _ => rfl,
    responseRowGives_of .invalidRequest (fun _ _ _ => rfl) fun _ _ => rfl⟩

/-- Settles O20: the packed frame is the word of a request frame with the response's code. -/
theorem decodingAResponseGivesItsRequest : Obligations.DecodingAResponseGivesItsRequest := by
  intro r t v s
  refine ⟨encodeFrame r t v, exec_codecEncode r t v s, ?_⟩
  rw [exec_codecDecode, decodeWord_encodeFrame_pack]
  rfl

/-- Settles O21: the value bytes put together are the value, and the canonical code names its request. -/
theorem requestFrameDecodesBack : Obligations.RequestFrameDecodesBack := by
  intro s q t lo hi v hv
  have hvalue : join16 lo hi = v := BitVec.eq_of_toNat_eq ((join16_toNat lo hi).trans hv.symm)
  rw [exec_codecDecode, decodeWord_pack, q.ofCode_code, hvalue]
  rfl

end Machine

end Sys2Proof
end

section
/-! SUPPORT. The decoder inverted: which packets each operand form and each port accepts and refuses, and the statements about the
encoding and the boundary (spec/30_encoding.md R70 to R81; spec/93_implementation_defined.md U10, U11; log 3, log 4, log 15). -/

namespace Sys2Proof

/-! ### Codes and operands -/

/-- A code byte names a response exactly when it is that response's code (R75, R78). -/
theorem Response.ofCode_eq_some {code : Byte} {r : Response} : Response.ofCode code = some r ↔ code = r.code := by
  constructor
  · intro h
    have hcode : code.toNat = r.code.toNat := by
      unfold Response.ofCode at h
      split at h
      case h_13 => cases h
      all_goals
        next hn =>
          cases h
          exact hn
    exact BitVec.eq_of_toNat_eq hcode
  · rintro rfl
    exact r.ofCode_code

/-- A code byte names no response exactly when it is one of 0x0B to 0xFE (R78). -/
theorem Response.ofCode_eq_none {code : Byte} : Response.ofCode code = none ↔ 0x0B ≤ code.toNat ∧ code.toNat ≤ 0xFE := by
  have hlt := code.isLt
  unfold Response.ofCode
  split
  case h_13 =>
    simp only [imp_false] at *
    simp only [true_iff]
    omega
  all_goals
    next hn => simp only [reduceCtorEq, false_iff, hn]; omega

/-- The bytes of two bytes put together are those two (R50). -/
theorem bytes16_join16 (lo hi : Byte) : bytes16 (join16 lo hi) = [lo, hi] := by rw [bytes16, join16_lo, join16_hi]

/-- An operation with no operand is decoded exactly from no bytes. -/
theorem operands0_eq_ok {i j : Instr} {bs : List Byte} : operands0 i bs = .ok j ↔ bs = [] ∧ i = j := by
  cases bs <;> simp [operands0]

/-- `ENCODE` is decoded exactly from a response's code, a target and the bytes of a value. -/
theorem operandsEncode_eq_ok {bs : List Byte} {i : Instr} :
    operandsEncode bs = .ok i ↔ ∃ r t v, bs = r.code :: t :: bytes16 v ∧ .codecEncode r t v = i := by
  constructor
  · intro h
    unfold operandsEncode at h
    split at h
    · next code t lo hi =>
      cases hr : Response.ofCode code with
      | none => simp [hr] at h
      | some r =>
        simp only [hr, Except.ok.injEq] at h
        exact ⟨r, t, join16 lo hi, by rw [bytes16_join16, Response.ofCode_eq_some.1 hr], h⟩
    · cases h
  · rintro ⟨r, t, v, rfl, rfl⟩
    simp [operandsEncode, bytes16]

/-- `ENCODE0` is decoded exactly from a response's code. -/
theorem operandsEncode0_eq_ok {bs : List Byte} {i : Instr} :
    operandsEncode0 bs = .ok i ↔ ∃ r, bs = [Response.code r] ∧ .codecEncode0 r = i := by
  constructor
  · intro h
    unfold operandsEncode0 at h
    split at h
    · next code =>
      cases hr : Response.ofCode code with
      | none => simp [hr] at h
      | some r =>
        simp only [hr, Except.ok.injEq] at h
        exact ⟨r, by rw [Response.ofCode_eq_some.1 hr], h⟩
    · cases h
  · rintro ⟨r, rfl, rfl⟩
    simp [operandsEncode0]

/-! ### What each port accepts -/

/-- The instruction stands for these operand bytes after this op_sel byte, on this channel where it has one. -/
def IsOperation (ch : Channel) (sel : Byte) (rest : List Byte) (i : Instr) : Prop :=
  i.wf = true ∧ encode i = opPacket (i.channel?.getD 0) sel rest ∧ ∀ d, i.channel? = some d → d = ch

/-- The decoder reads from an operation packet only an instruction that the encoder writes as that packet (R80). -/
theorem decodeOpSel_isOperation {ch : Channel} {sel : Byte} {rest : List Byte} {i : Instr}
    (h : decodeOpSel ch sel rest = .ok i) : IsOperation ch sel rest i := by
  have hsel : sel = BitVec.ofNat 8 sel.toNat := by simp
  unfold decodeOpSel at h
  generalize sel.toNat = n at hsel h
  subst hsel
  split at h
  case h_1 =>
    obtain ⟨now, m, rfl, rfl⟩ := operands2_eq_ok.1 h
    exact ⟨rfl, rfl, by simp [Instr.channel?]⟩
  case h_2 | h_3 | h_5 | h_7 | h_9 | h_12 | h_13 | h_15 | h_17 =>
    obtain ⟨rfl, rfl⟩ := operands0_eq_ok.1 h
    exact ⟨rfl, rfl, by simp [Instr.channel?]⟩
  case h_4 | h_6 | h_8 | h_10 | h_11 | h_14 | h_16 | h_18 | h_19 =>
    obtain ⟨a, rfl, rfl⟩ := operands1_eq_ok.1 h
    exact ⟨rfl, rfl, by simp [Instr.channel?]⟩
  case h_20 =>
    obtain ⟨r, t, v, rfl, rfl⟩ := operandsEncode_eq_ok.1 h
    exact ⟨rfl, rfl, by simp [Instr.channel?]⟩
  case h_21 =>
    obtain ⟨r, rfl, rfl⟩ := operandsEncode0_eq_ok.1 h
    exact ⟨rfl, rfl, by simp [Instr.channel?]⟩
  case h_22 => cases h

/-- The encoder writes a request row as its code, its target and its value (R104 to R115), and the row is well-formed. -/
theorem requestRow_encodes (code : Byte) (t : Channel) (v : Value) :
    (requestRow code t v).wf = true ∧ (requestRow code t v).channel? = none ∧
      encode (requestRow code t v) = requestFrame code t v := by
  by_cases hunnamed : unnamedRequestCode code = true
  · rw [requestRow_unnamed hunnamed]
    exact ⟨hunnamed, rfl, rfl⟩
  · have hle : code.toNat ≤ 0x0A := by simpa [unnamedRequestCode] using hunnamed
    have hcode : code = BitVec.ofNat 8 code.toNat := by simp
    unfold requestRow
    generalize code.toNat = n at hcode hle
    subst hcode
    interval_cases n <;> exact ⟨rfl, rfl, rfl⟩

/-- The encoder writes a response row as its response's code, its target and its value (R116 to R127). -/
theorem responseRow_encodes (r : Response) (t : Channel) (v : Value) :
    (responseRow r t v).wf = true ∧ (responseRow r t v).channel? = none ∧
      encode (responseRow r t v) = responseFrame r t v := by
  cases r <;> exact ⟨rfl, rfl, rfl⟩

/-- A frame at the decode input is decoded exactly from the four bytes of a request row. -/
theorem decodeCommand_eq_ok {bs : List Byte} {i : Instr} :
    decodeCommand bs = .ok i ↔ ∃ code t v, bs = code :: t :: bytes16 v ∧ requestRow code t v = i := by
  constructor
  · intro h
    unfold decodeCommand at h
    split at h
    · next code t lo hi =>
      injection h with h
      exact ⟨code, t, join16 lo hi, by rw [bytes16_join16], h⟩
    · cases h
  · rintro ⟨code, t, v, rfl, rfl⟩
    simp [decodeCommand, bytes16]

/-- A frame at the encode input is decoded exactly from the four bytes of a response row. -/
theorem decodeResponse_eq_ok {bs : List Byte} {i : Instr} :
    decodeResponse bs = .ok i ↔ ∃ r t v, bs = Response.code r :: t :: bytes16 v ∧ responseRow r t v = i := by
  constructor
  · intro h
    unfold decodeResponse at h
    split at h
    · next code t lo hi =>
      cases hr : Response.ofCode code with
      | none => simp [hr] at h
      | some r =>
        simp only [hr, Except.ok.injEq] at h
        exact ⟨r, t, join16 lo hi, by rw [bytes16_join16, Response.ofCode_eq_some.1 hr], h⟩
    · cases h
  · rintro ⟨r, t, v, rfl, rfl⟩
    simp [decodeResponse, bytes16]

/-! ### What each port refuses -/

/-- Bytes that do not match a frame of four are not four in number. -/
theorem length_ne_four {bs : List Byte} (h : ∀ code t lo hi, bs = [code, t, lo, hi] → False) : bs.length ≠ 4 := by
  intro hlen
  obtain ⟨code, t, lo, hi, rfl⟩ := List.length_eq_four.1 hlen
  exact h code t lo hi rfl

/-- An operation with no operand is refused exactly where bytes follow its op_sel byte. -/
theorem operands0_eq_error {i : Instr} {bs : List Byte} :
    operands0 i bs = .error (.packetNotWhole .opSel) ↔ bs.length ≠ 0 := by
  cases bs <;> simp [operands0]

/-- The operands of `ENCODE` are refused as not whole exactly where they are not four bytes. -/
theorem operandsEncode_eq_error {bs : List Byte} :
    operandsEncode bs = .error (.packetNotWhole .opSel) ↔ bs.length ≠ 4 := by
  unfold operandsEncode
  split
  · next code t lo hi => cases Response.ofCode code <;> simp
  · next hne =>
    exact iff_of_true rfl (length_ne_four hne)

/-- The operand of `ENCODE0` is refused as not whole exactly where it is not one byte. -/
theorem operandsEncode0_eq_error {bs : List Byte} :
    operandsEncode0 bs = .error (.packetNotWhole .opSel) ↔ bs.length ≠ 1 := by
  unfold operandsEncode0
  split
  · next code => cases Response.ofCode code <;> simp
  · next hne =>
    simp only [true_iff]
    intro hlen
    obtain ⟨code, rfl⟩ := List.length_eq_one_iff.1 hlen
    exact hne code rfl

/-- The decoding of no operand never refuses the op_sel byte. -/
theorem operands0_ne_opSelUnassigned {i : Instr} {bs : List Byte} {sel : Byte} :
    operands0 i bs ≠ .error (.opSelUnassigned sel) := by
  cases bs <;> simp [operands0]

/-- The decoding of one operand never refuses the op_sel byte. -/
theorem operands1_ne_opSelUnassigned {w : Nat} {mk : BitVec w → Instr} {bs : List Byte} {sel : Byte} :
    operands1 mk bs ≠ .error (.opSelUnassigned sel) := by
  unfold operands1
  split <;> simp

/-- The decoding of two operands never refuses the op_sel byte. -/
theorem operands2_ne_opSelUnassigned {v w : Nat} {mk : BitVec v → BitVec w → Instr} {bs : List Byte} {sel : Byte} :
    operands2 mk bs ≠ .error (.opSelUnassigned sel) := by
  unfold operands2
  split <;> simp

/-- The decoding of the operands of `ENCODE` never refuses the op_sel byte. -/
theorem operandsEncode_ne_opSelUnassigned {bs : List Byte} {sel : Byte} :
    operandsEncode bs ≠ .error (.opSelUnassigned sel) := by
  unfold operandsEncode
  split
  · next code t lo hi => cases Response.ofCode code <;> simp
  · simp

/-- The decoding of the operand of `ENCODE0` never refuses the op_sel byte. -/
theorem operandsEncode0_ne_opSelUnassigned {bs : List Byte} {sel : Byte} :
    operandsEncode0 bs ≠ .error (.opSelUnassigned sel) := by
  unfold operandsEncode0
  split
  · next code => cases Response.ofCode code <;> simp
  · simp

/-- An op_sel byte has no packet length exactly where R80 does not list it. -/
theorem packetLength_eq_none {n : Nat} :
    packetLength n = none ↔ ¬ (n ≤ 0x0A ∨ (0x10 ≤ n ∧ n ≤ 0x16) ∨ (0x20 ≤ n ∧ n ≤ 0x22)) := by
  unfold packetLength
  split
  case h_22 =>
    simp only [imp_false] at *
    simp only [true_iff]
    omega
  all_goals simp

/-- A packet is refused as an op_sel byte exactly where R80 does not list that byte (U11). -/
theorem decodeOpSel_eq_opSelUnassigned {ch : Channel} {sel : Byte} {rest : List Byte} :
    decodeOpSel ch sel rest = .error (.opSelUnassigned sel) ↔ packetLength sel.toNat = none := by
  unfold decodeOpSel
  generalize sel.toNat = k
  split
  case h_1 => exact iff_of_false operands2_ne_opSelUnassigned nofun
  case h_2 | h_3 | h_5 | h_7 | h_9 | h_12 | h_13 | h_15 | h_17 => exact iff_of_false operands0_ne_opSelUnassigned nofun
  case h_4 | h_6 | h_8 | h_10 | h_11 | h_14 | h_16 | h_18 | h_19 =>
    exact iff_of_false operands1_ne_opSelUnassigned nofun
  case h_20 => exact iff_of_false operandsEncode_ne_opSelUnassigned nofun
  case h_21 => exact iff_of_false operandsEncode0_ne_opSelUnassigned nofun
  case h_22 =>
    simp only [imp_false] at *
    rw [true_iff, packetLength_eq_none]
    omega

/-- A packet of a listed op_sel byte is refused as not whole exactly where its length is not the operation's (D24). -/
theorem decodeOpSel_eq_notWhole {ch : Channel} {sel : Byte} {rest : List Byte} {n : Nat} (h : packetLength sel.toNat = some n) :
    decodeOpSel ch sel rest = .error (.packetNotWhole .opSel) ↔ rest.length + 1 ≠ n := by
  unfold decodeOpSel
  generalize sel.toNat = k at h
  split
  case h_1 =>
    obtain rfl := Option.some.inj h
    rw [operands2_eq_error (by decide) (by decide)]
    simp only [byteCount]
    omega
  case h_2 | h_3 | h_5 | h_7 | h_9 | h_12 | h_13 | h_15 | h_17 =>
    obtain rfl := Option.some.inj h
    rw [operands0_eq_error]
    omega
  case h_4 | h_6 | h_8 | h_10 | h_11 | h_14 | h_16 | h_18 | h_19 =>
    obtain rfl := Option.some.inj h
    rw [operands1_eq_error (by decide)]
    simp only [byteCount]
    omega
  case h_20 =>
    obtain rfl := Option.some.inj h
    rw [operandsEncode_eq_error]
    omega
  case h_21 =>
    obtain rfl := Option.some.inj h
    rw [operandsEncode0_eq_error]
    omega
  case h_22 =>
    simp only [imp_false] at *
    rw [packetLength_eq_none.2 (by omega)] at h
    cases h

/-- The response code of a four-byte frame at the encode input is refused exactly where it names no response (R78, U10). -/
theorem decodeResponse_eq_responseCodeUnassigned {code t lo hi : Byte} :
    decodeResponse [code, t, lo, hi] = .error (.responseCodeUnassigned code) ↔ Response.ofCode code = none := by
  cases h : Response.ofCode code <;> simp [decodeResponse, h]

/-- The response code of `ENCODE` is refused exactly where it names no response (R78, U10). -/
theorem operandsEncode_eq_responseCodeUnassigned {code t lo hi : Byte} :
    operandsEncode [code, t, lo, hi] = .error (.responseCodeUnassigned code) ↔ Response.ofCode code = none := by
  cases h : Response.ofCode code <;> simp [operandsEncode, h]

/-- The response code of `ENCODE0` is refused exactly where it names no response (R78, U10). -/
theorem operandsEncode0_eq_responseCodeUnassigned {code : Byte} :
    operandsEncode0 [code] = .error (.responseCodeUnassigned code) ↔ Response.ofCode code = none := by
  cases h : Response.ofCode code <;> simp [operandsEncode0, h]

/-- Bytes at the decode input are refused exactly where they are not four (R70). -/
theorem decodeCommand_eq_notWhole {bs : List Byte} :
    decodeCommand bs = .error (.packetNotWhole .command) ↔ bs.length ≠ 4 := by
  unfold decodeCommand
  split
  · simp
  · next hne =>
    exact iff_of_true rfl (length_ne_four hne)

/-- Bytes at the encode input are refused as not whole exactly where they are not four (R70). -/
theorem decodeResponse_eq_notWhole {bs : List Byte} :
    decodeResponse bs = .error (.packetNotWhole .response) ↔ bs.length ≠ 4 := by
  unfold decodeResponse
  split
  · next code t lo hi => cases Response.ofCode code <;> simp
  · next hne =>
    exact iff_of_true rfl (length_ne_four hne)

/-! ### Words of the opcode table -/

/-- An operation packet has its op_sel byte at least. -/
theorem packetLength_pos {k n : Nat} (h : packetLength k = some n) : 0 < n := by
  unfold packetLength at h
  split at h
  case h_22 => cases h
  all_goals
    obtain rfl := Option.some.inj h
    omega

/-- A table word of another length than 32 bits is an operation packet whose first byte is the word's, and which holds every byte of
the word and of its operation (log 4). -/
theorem tableIssue_of_operation {nbits : Nat} (h : nbits ≠ 32) (w : Nat) :
    ∃ rest : List Byte, tableIssue nbits w = ⟨0, .opSel, BitVec.ofNat 8 (w % 2 ^ nbits % 256) :: rest⟩ ∧
      rest.length + 1 = max (byteCount nbits) ((packetLength (w % 2 ^ nbits % 256)).getD 1) := by
  obtain ⟨k, hk⟩ : ∃ k, k + 1 = max (byteCount nbits) ((packetLength (w % 2 ^ nbits % 256)).getD 1) := by
    refine Nat.exists_add_one_eq.2 (lt_max_of_lt_right ?_)
    cases hlen : packetLength (w % 2 ^ nbits % 256) with
    | none => exact Nat.one_pos
    | some n => exact packetLength_pos hlen
  refine ⟨bytesOfNat k (w % 2 ^ nbits / 256), ?_, by rw [bytesOfNat_length, hk]⟩
  have hfirst : BitVec.ofNat 8 (w % 2 ^ nbits) = BitVec.ofNat 8 (w % 2 ^ nbits % 256) := by
    apply BitVec.eq_of_toNat_eq
    simp only [BitVec.toNat_ofNat]
    omega
  simp only [tableIssue, if_neg h, ← hk, bytesOfNat_succ, hfirst]

namespace Machine

/-- A table word that the decoder refuses decodes to nothing, and the next step refuses it by the same name (log 4). -/
theorem withFetchWord_refused {s : State} {nbits w : Nat} {e : DecodeError} (h : decode (tableIssue nbits w) = .error e) :
    decodeTableWord nbits w = none ∧ step (s.withFetchWord nbits w) = .refused (refusalOf e) := by
  refine ⟨?_, step_of_error (State.withFetchWord_pending s nbits w) h⟩
  simp only [decodeTableWord, h]

/-! ### The statements -/

/-- Settles O5, by one round trip for each constructor. -/
theorem decodeInvertsEncode : Obligations.DecodeInvertsEncode := by
  intro i
  cases i with
  | ctlStep ch now m => exact Laws.RoundTrip.ctlStep ch now m
  | ctlEnable ch => exact Laws.RoundTrip.ctlEnable ch
  | ctlDisable ch => exact Laws.RoundTrip.ctlDisable ch
  | ctlGetMoisture ch m => exact Laws.RoundTrip.ctlGetMoisture ch m
  | ctlGetThreshold ch => exact Laws.RoundTrip.ctlGetThreshold ch
  | ctlSetThreshold ch arg => exact Laws.RoundTrip.ctlSetThreshold ch arg
  | ctlGetPulseLength ch => exact Laws.RoundTrip.ctlGetPulseLength ch
  | ctlSetPulseLength ch arg => exact Laws.RoundTrip.ctlSetPulseLength ch arg
  | ctlGetFrequency ch => exact Laws.RoundTrip.ctlGetFrequency ch
  | ctlSetFrequency ch arg => exact Laws.RoundTrip.ctlSetFrequency ch arg
  | ctlIsRunning ch now => exact Laws.RoundTrip.ctlIsRunning ch now
  | ptActivate => exact Laws.RoundTrip.ptActivate
  | ptDeactivate => exact Laws.RoundTrip.ptDeactivate
  | ptIsFiring now => exact Laws.RoundTrip.ptIsFiring now
  | ptGetPulseLength => exact Laws.RoundTrip.ptGetPulseLength
  | ptSetPulseLength arg => exact Laws.RoundTrip.ptSetPulseLength arg
  | ptGetFrequency => exact Laws.RoundTrip.ptGetFrequency
  | ptSetFrequency arg => exact Laws.RoundTrip.ptSetFrequency arg
  | codecDecode word => exact Laws.RoundTrip.codecDecode word
  | codecEncode r t v => exact Laws.RoundTrip.codecEncode r t v
  | codecEncode0 r => exact Laws.RoundTrip.codecEncode0 r
  | reqPing t v => exact Laws.RoundTrip.reqPing t v
  | reqGetMoisture t v => exact Laws.RoundTrip.reqGetMoisture t v
  | reqSetThreshold t v => exact Laws.RoundTrip.reqSetThreshold t v
  | reqGetPulseLength t v => exact Laws.RoundTrip.reqGetPulseLength t v
  | reqSetPulseLength t v => exact Laws.RoundTrip.reqSetPulseLength t v
  | reqGetIsRunning t v => exact Laws.RoundTrip.reqGetIsRunning t v
  | reqGetThreshold t v => exact Laws.RoundTrip.reqGetThreshold t v
  | reqEnable t v => exact Laws.RoundTrip.reqEnable t v
  | reqDisable t v => exact Laws.RoundTrip.reqDisable t v
  | reqGetFrequency t v => exact Laws.RoundTrip.reqGetFrequency t v
  | reqSetFrequency t v => exact Laws.RoundTrip.reqSetFrequency t v
  | reqUnknown code t v => exact Laws.RoundTrip.reqUnknown code t v
  | rspPong t v => exact Laws.RoundTrip.rspPong t v
  | rspMoistureResponse t v => exact Laws.RoundTrip.rspMoistureResponse t v
  | rspSetThresholdResponse t v => exact Laws.RoundTrip.rspSetThresholdResponse t v
  | rspPulseLengthResponse t v => exact Laws.RoundTrip.rspPulseLengthResponse t v
  | rspSetPulseLengthResponse t v => exact Laws.RoundTrip.rspSetPulseLengthResponse t v
  | rspIsRunning t v => exact Laws.RoundTrip.rspIsRunning t v
  | rspThresholdResponse t v => exact Laws.RoundTrip.rspThresholdResponse t v
  | rspEnableResponse t v => exact Laws.RoundTrip.rspEnableResponse t v
  | rspDisableResponse t v => exact Laws.RoundTrip.rspDisableResponse t v
  | rspFrequencyResponse t v => exact Laws.RoundTrip.rspFrequencyResponse t v
  | rspSetFrequencyResponse t v => exact Laws.RoundTrip.rspSetFrequencyResponse t v
  | rspInvalidRequest t v => exact Laws.RoundTrip.rspInvalidRequest t v

/-- Settles O6: each port accepts exactly the packets the encoder writes there. -/
theorem encodeInvertsDecode : Obligations.EncodeInvertsDecode := by
  intro q i h
  obtain ⟨ch, port, packet⟩ := q
  cases port with
  | opSel =>
    cases packet with
    | nil => cases h
    | cons sel rest =>
      obtain ⟨hwf, hencode, hchannel⟩ := decodeOpSel_isOperation h
      refine ⟨hwf, by rw [hencode]; rfl, by rw [hencode]; rfl, fun d hd => ?_⟩
      obtain rfl := hchannel d hd
      refine ⟨rfl, ?_⟩
      rw [hencode, hd]
      rfl
  | command =>
    obtain ⟨code, t, v, rfl, rfl⟩ := decodeCommand_eq_ok.1 h
    obtain ⟨hwf, hchannel, hencode⟩ := requestRow_encodes code t v
    exact ⟨hwf, by rw [hencode]; rfl, by rw [hencode]; rfl, fun _ hd => nomatch hchannel.symm.trans hd⟩
  | response =>
    obtain ⟨r, t, v, rfl, rfl⟩ := decodeResponse_eq_ok.1 h
    obtain ⟨hwf, hchannel, hencode⟩ := responseRow_encodes r t v
    exact ⟨hwf, by rw [hencode]; rfl, by rw [hencode]; rfl, fun _ hd => nomatch hchannel.symm.trans hd⟩

/-- Settles O10, clause by clause: each port's refusals by name. -/
theorem boundaryRefusesByName : Obligations.BoundaryRefusesByName :=
  ⟨fun _ _ _ => decodeOpSel_eq_opSelUnassigned.trans packetLength_eq_none,
    fun _ _ _ _ _ => decodeResponse_eq_responseCodeUnassigned.trans Response.ofCode_eq_none,
    fun _ _ _ _ _ => operandsEncode_eq_responseCodeUnassigned.trans Response.ofCode_eq_none,
    fun _ _ => operandsEncode0_eq_responseCodeUnassigned.trans Response.ofCode_eq_none,
    fun _ _ _ _ hlength => decodeOpSel_eq_notWhole hlength,
    fun _ _ => decodeCommand_eq_notWhole,
    fun _ _ => decodeResponse_eq_notWhole⟩

/-- Settles O60: the word is an operation packet with the word's first byte, and one that is longer than its operation where the
word is. -/
theorem tableWordsThatAreNoOperationAreRefused : Obligations.TableWordsThatAreNoOperationAreRefused := by
  intro s nbits w hbits
  obtain ⟨rest, hissue, hlength⟩ := tableIssue_of_operation hbits w
  have hsel : (BitVec.ofNat 8 (w % 2 ^ nbits % 256)).toNat = w % 2 ^ nbits % 256 := by
    rw [BitVec.toNat_ofNat]
    omega
  refine ⟨fun hnone => ?unlisted, fun n hsome hlong => ?long⟩
  case unlisted =>
    have hdecode : decode (tableIssue nbits w) = .error (.opSelUnassigned (BitVec.ofNat 8 (w % 2 ^ nbits % 256))) := by
      rw [hissue]
      exact decodeOpSel_eq_opSelUnassigned.2 (hsel.symm ▸ hnone)
    exact withFetchWord_refused hdecode
  case long =>
    have hdecode : decode (tableIssue nbits w) = .error (.packetNotWhole .opSel) := by
      rw [hissue]
      refine (decodeOpSel_eq_notWhole (hsel.symm ▸ hsome)).2 ?_
      rw [hlength, hsome, Option.getD_some]
      omega
    exact withFetchWord_refused hdecode

/-- Settles O7: a step decodes the oldest packet and then runs the instruction, or refuses by the decoder's name. -/
theorem stepRunsOldestOperation : Obligations.StepRunsOldestOperation := fun _ _ _ hpending =>
  ⟨fun _ => step_of_decode hpending, fun _ => step_of_error hpending⟩

/-- Settles O8: the word's packet is the oldest one, and taking it off leaves the state before. -/
theorem tableWordRunsNext : Obligations.TableWordRunsNext := by
  intro s nbits w i h
  unfold decodeTableWord at h
  split at h
  · next hdecode =>
    cases h
    exact step_of_decode (State.withFetchWord_pending s nbits w) hdecode
  · cases h

/-- Settles O9: the decoder run on each packet. -/
theorem specPacketsDecode : Obligations.SpecPacketsDecode := ⟨rfl, rfl, rfl, rfl, rfl, rfl, rfl, rfl, rfl, rfl⟩

end Machine

end Sys2Proof
end

section
/-! SUPPORT. Everything an instruction can do to its unit, said once as two inductive relations, and the statements about which
operation reads and writes what (spec/10_state.md R23 to R31, R39; spec/60_exceptions.md R212; spec/20_memory.md R57). -/

namespace Sys2Proof.Machine

/-! ### What an operation does to its unit -/

/-- Everything a controller operation does on channel `ch` with record `c`: the next record and the events (42_controller.md R170
to R182). -/
inductive ChannelEffect (ch : Channel) (c : Controller) : Instr → Controller → List Event → Prop
  | step (now : Timestamp) (m : Moisture) (henabled : c.enabled = true) :
      ChannelEffect ch c (.ctlStep ch now m) (c.stepped now m).1
        [.sensorRead ch m, .clockRead (.channel ch) now, .pumpWrite ch (pumpLevel (c.stepped now m).2)]
  | stepDisabled (now : Timestamp) (m : Moisture) (hdisabled : c.enabled = false) :
      ChannelEffect ch c (.ctlStep ch now m) c []
  | enable : ChannelEffect ch c (.ctlEnable ch) { c with enabled := true } []
  | disable :
      ChannelEffect ch c (.ctlDisable ch) { c with enabled := false, pumpOut := .high, pulse := c.pulse.deactivate }
        [.pumpWrite ch .high]
  | getMoisture (m : Moisture) : ChannelEffect ch c (.ctlGetMoisture ch m) c [.sensorRead ch m]
  | getThreshold : ChannelEffect ch c (.ctlGetThreshold ch) c []
  | setThreshold (v : Threshold) : ChannelEffect ch c (.ctlSetThreshold ch v) { c with humidityThreshold := v } []
  | getPulseLength : ChannelEffect ch c (.ctlGetPulseLength ch) c []
  | setPulseLength (v : Span) :
      ChannelEffect ch c (.ctlSetPulseLength ch v) { c with pulse := { c.pulse with pulseLength := v } } []
  | getFrequency : ChannelEffect ch c (.ctlGetFrequency ch) c []
  | setFrequency (v : Span) :
      ChannelEffect ch c (.ctlSetFrequency ch v) { c with pulse := { c.pulse with frequency := v } } []
  | isRunning (now : Timestamp) :
      ChannelEffect ch c (.ctlIsRunning ch now) { c with pulse := c.pulse.reanchor now } [.clockRead (.channel ch) now]

/-- Everything an operation of the standalone timer does on its record `p`: the next record and the events (41_pulse_timer.md R141
to R147). -/
inductive TimerEffect (p : PulseTimer) : Instr → PulseTimer → List Event → Prop
  | activate : TimerEffect p .ptActivate p.activate []
  | deactivate : TimerEffect p .ptDeactivate p.deactivate []
  | isFiring (now : Timestamp) : TimerEffect p (.ptIsFiring now) (p.reanchor now) [.clockRead .timer now]
  | getPulseLength : TimerEffect p .ptGetPulseLength p []
  | setPulseLength (v : Span) : TimerEffect p (.ptSetPulseLength v) { p with pulseLength := v } []
  | getFrequency : TimerEffect p .ptGetFrequency p []
  | setFrequency (v : Span) : TimerEffect p (.ptSetFrequency v) { p with frequency := v } []

/-- The operation of a controller instruction has one of the effects of `ChannelEffect`. -/
theorem ctlOp_effect {i : Instr} {ch : Channel} {op : Controller → Reply Controller} (hi : i.channel? = some ch)
    (ho : ∀ s, exec i s = onChannel ch op s) (c : Controller) : ChannelEffect ch c i (op c).unit (op c).events := by
  cases i <;> simp only [Instr.channel?, Option.some.injEq, reduceCtorEq] at hi <;> subst hi <;>
    obtain rfl := onChannel_inj ho
  case ctlStep now m =>
    cases henabled : c.enabled with
    | true => simpa only [henabled, if_true, Controller.poll] using ChannelEffect.step now m henabled
    | false => simpa only [henabled, Bool.false_eq_true, if_false] using ChannelEffect.stepDisabled now m henabled
  case ctlEnable => exact .enable
  case ctlDisable => exact .disable
  case ctlGetMoisture m => exact .getMoisture m
  case ctlGetThreshold => exact .getThreshold
  case ctlSetThreshold v => exact .setThreshold v
  case ctlGetPulseLength => exact .getPulseLength
  case ctlSetPulseLength v => exact .setPulseLength v
  case ctlGetFrequency => exact .getFrequency
  case ctlSetFrequency v => exact .setFrequency v
  case ctlIsRunning now => exact .isRunning now

/-- A timer operation that answers next has one of the effects of `TimerEffect`, and only adds its events and its result. -/
theorem exec_onTimer_effect {i : Instr} {s t : State} (h : exec i s = .next t) (hi : i.channel? = none)
    (hcodec : i.isCodec = false) :
    ∃ p es r, TimerEffect s.timer i p es ∧ t = ((s.setTimer p).emit es).answer r := by
  cases i <;> simp only [Instr.channel?, Instr.isCodec, reduceCtorEq] at hi hcodec
  case ptActivate => exact ⟨_, _, _, .activate, onTimer_next ((execPtActivate.eq_1 s).symm.trans h)⟩
  case ptDeactivate => exact ⟨_, _, _, .deactivate, onTimer_next ((execPtDeactivate.eq_1 s).symm.trans h)⟩
  case ptIsFiring now => exact ⟨_, _, _, .isFiring now, onTimer_next ((execPtIsFiring.eq_1 now s).symm.trans h)⟩
  case ptGetPulseLength => exact ⟨_, _, _, .getPulseLength, onTimer_next ((execPtGetPulseLength.eq_1 s).symm.trans h)⟩
  case ptSetPulseLength v => exact ⟨_, _, _, .setPulseLength v, onTimer_next ((execPtSetPulseLength.eq_1 v s).symm.trans h)⟩
  case ptGetFrequency => exact ⟨_, _, _, .getFrequency, onTimer_next ((execPtGetFrequency.eq_1 s).symm.trans h)⟩
  case ptSetFrequency v => exact ⟨_, _, _, .setFrequency v, onTimer_next ((execPtSetFrequency.eq_1 v s).symm.trans h)⟩

/-- Everything `exec` can do when it answers next: the effect of an operation on one channel unit, that of one on the standalone
timer, or one more codec result. -/
theorem exec_next_effect {i : Instr} {s t : State} (h : exec i s = .next t) :
    (∃ ch c c' es r, s.channels[ch.toNat]? = some c ∧ ChannelEffect ch c i c' es ∧
      t = ((s.setChannel ch c').emit es).answer r) ∨
    (∃ p es r, TimerEffect s.timer i p es ∧ t = ((s.setTimer p).emit es).answer r) ∨
    (∃ r, i.isCodec = true ∧ t = s.answer r) := by
  obtain ⟨ch, op, c, hi, ho, hc, ht⟩ | ⟨-, hi, hcodec, -⟩ | ⟨r, -, hcodec, -, ht⟩ := exec_next_cases h
  · exact .inl ⟨ch, c, _, _, _, hc, ctlOp_effect hi ho c, ht⟩
  · exact .inr (.inl (exec_onTimer_effect h hi hcodec))
  · exact .inr (.inr ⟨r, hcodec, ht⟩)

/-- An instruction with an effect on a channel operates on that channel. -/
theorem ChannelEffect.channel? {ch : Channel} {c c' : Controller} {i : Instr} {es : List Event}
    (h : ChannelEffect ch c i c' es) : i.channel? = some ch := by cases h <;> rfl

/-- An operation on one channel writes no other channel's pump (10_state.md R39). -/
theorem ChannelEffect.pumpWritesOf_other {ch d : Channel} {c c' : Controller} {i : Instr} {es : List Event}
    (h : ChannelEffect ch c i c' es) (hne : d ≠ ch) : pumpWritesOf d es = [] := by
  cases h <;> simp [pumpWritesOf, hne.symm]

/-- An instruction with an effect on the standalone timer operates on no channel, and is no codec instruction. -/
theorem TimerEffect.unit {p p' : PulseTimer} {i : Instr} {es : List Event} (h : TimerEffect p i p' es) :
    i.channel? = none ∧ i.isCodec = false := by cases h <;> exact ⟨rfl, rfl⟩

/-- An operation of the standalone timer writes no pump. -/
theorem TimerEffect.pumpWritesOf_eq_nil {p p' : PulseTimer} {i : Instr} {es : List Event} (h : TimerEffect p i p' es)
    (d : Channel) : pumpWritesOf d es = [] := by cases h <;> rfl

/-! ### The record of one channel, and of the timer, after an instruction -/

/-- A codec instruction operates on no channel. -/
theorem channel?_of_isCodec {i : Instr} (h : i.isCodec = true) : i.channel? = none := by
  cases i <;> simp only [Instr.isCodec, reduceCtorEq] at h <;> rfl

/-- An instruction keeps the record and the pump writes of every channel it does not operate on (10_state.md R39). -/
theorem exec_keeps_other_channel {i : Instr} {s t : State} {d : Channel} (h : exec i s = .next t) (hd : i.channel? ≠ some d) :
    t.channels[d.toNat]? = s.channels[d.toNat]? ∧ pumpWritesOf d t.trace = pumpWritesOf d s.trace := by
  obtain ⟨ch, c, c', es, r, -, heff, rfl⟩ | ⟨p, es, r, heff, rfl⟩ | ⟨r, -, rfl⟩ := exec_next_effect h
  · have hne : d ≠ ch := fun e => hd (e ▸ heff.channel?)
    refine ⟨State.setChannel_other hne, ?_⟩
    rw [State.answer_trace, State.emit_trace, State.setChannel_trace, pumpWritesOf_append, heff.pumpWritesOf_other hne,
      List.append_nil]
  · refine ⟨rfl, ?_⟩
    rw [State.answer_trace, State.emit_trace, State.setTimer_trace, pumpWritesOf_append, heff.pumpWritesOf_eq_nil,
      List.append_nil]
  · exact ⟨rfl, rfl⟩

/-- An instruction that operates on channel `ch` has an effect on that channel's record and adds its events to the trace. -/
theorem exec_channel_effect {i : Instr} {s t : State} {ch : Channel} (h : exec i s = .next t) (hi : i.channel? = some ch) :
    ∃ c c' es, s.channels[ch.toNat]? = some c ∧ t.channels[ch.toNat]? = some c' ∧ ChannelEffect ch c i c' es ∧
      t.trace = s.trace ++ es := by
  obtain ⟨d, c, c', es, r, hc, heff, rfl⟩ | ⟨p, es, r, heff, -⟩ | ⟨r, hcodec, -⟩ := exec_next_effect h
  · obtain rfl : d = ch := Option.some.inj (heff.channel?.symm.trans hi)
    exact ⟨c, c', es, hc, State.setChannel_same hc, heff, rfl⟩
  · cases heff.unit.1.symm.trans hi
  · cases (channel?_of_isCodec hcodec).symm.trans hi

/-- The record of a channel after an instruction is the record before it, or that of an effect on it. -/
theorem exec_record_cases {i : Instr} {s t : State} {ch : Channel} {c c' : Controller} (h : exec i s = .next t)
    (hc : s.channels[ch.toNat]? = some c) (hc' : t.channels[ch.toNat]? = some c') :
    c' = c ∨ ∃ es, ChannelEffect ch c i c' es := by
  by_cases hi : i.channel? = some ch
  · obtain ⟨d, d', es, hd, hd', heff, -⟩ := exec_channel_effect h hi
    cases hc.symm.trans hd
    cases hc'.symm.trans hd'
    exact .inr ⟨es, heff⟩
  · exact .inl (Option.some.inj (hc'.symm.trans ((exec_keeps_other_channel h hi).1.trans hc)))

/-- The record of the standalone timer after an instruction is the record before it, or that of an effect on it. -/
theorem exec_timer_cases {i : Instr} {s t : State} (h : exec i s = .next t) :
    t.timer = s.timer ∨ ∃ es, TimerEffect s.timer i t.timer es := by
  obtain ⟨ch, c, c', es, r, -, -, rfl⟩ | ⟨p, es, r, heff, rfl⟩ | ⟨r, -, rfl⟩ := exec_next_effect h
  · exact .inl rfl
  · exact .inr ⟨es, heff⟩
  · exact .inl rfl

/-- An instruction leaves the operation stream and the number of channel units as they are. -/
theorem exec_keeps_shape {i : Instr} {s t : State} (h : exec i s = .next t) :
    t.pending = s.pending ∧ t.channels.length = s.channels.length := by
  obtain ⟨ch, c, c', es, r, -, -, rfl⟩ | ⟨p, es, r, -, rfl⟩ | ⟨r, -, rfl⟩ := exec_next_effect h
  · exact ⟨rfl, by simp⟩
  · exact ⟨rfl, rfl⟩
  · exact ⟨rfl, rfl⟩

/-- An instruction that neither disables a channel nor steps it while enabled keeps its pump level and adds no pump write
(10_state.md R31). -/
theorem exec_keeps_pump {i : Instr} {s t : State} {ch : Channel} (h : exec i s = .next t) (hdisable : i ≠ .ctlDisable ch)
    (hstep : ∀ c now m, s.channels[ch.toNat]? = some c → c.enabled = true → i ≠ .ctlStep ch now m) :
    (t.channels[ch.toNat]?).map (·.pumpOut) = (s.channels[ch.toNat]?).map (·.pumpOut) ∧
      pumpWritesOf ch t.trace = pumpWritesOf ch s.trace := by
  by_cases hi : i.channel? = some ch
  · obtain ⟨c, c', es, hc, hc', heff, htrace⟩ := exec_channel_effect h hi
    have hkeeps : c'.pumpOut = c.pumpOut ∧ pumpWritesOf ch es = [] := by
      cases heff
      case step now m henabled => exact absurd rfl (hstep c now m hc henabled)
      case disable => exact absurd rfl hdisable
      all_goals exact ⟨rfl, rfl⟩
    rw [hc, hc', htrace, pumpWritesOf_append, hkeeps.2, List.append_nil]
    exact ⟨congrArg some hkeeps.1, rfl⟩
  · obtain ⟨hrecord, hwrites⟩ := exec_keeps_other_channel h hi
    exact ⟨by rw [hrecord], hwrites⟩

/-! ### The registers an effect may change -/

/-- Only `PT.ACTIVATE` and `PT.DEACTIVATE` change the state of the standalone timer (10_state.md R23). -/
theorem TimerEffect.running {p p' : PulseTimer} {i : Instr} {es : List Event} (h : TimerEffect p i p' es) :
    p'.running ≠ p.running → i = .ptActivate ∨ i = .ptDeactivate := by
  cases h
  case activate => exact fun _ => .inl rfl
  case deactivate => exact fun _ => .inr rfl
  case isFiring now => exact absurd (PulseTimerOf.reanchor_running _ now)
  all_goals exact absurd rfl

/-- Only the sets change the lengths of the standalone timer, to their operands (10_state.md R24, R25). -/
theorem TimerEffect.configuration {p p' : PulseTimer} {i : Instr} {es : List Event} (h : TimerEffect p i p' es) :
    (p'.frequency ≠ p.frequency → i = .ptSetFrequency p'.frequency) ∧
      (p'.pulseLength ≠ p.pulseLength → i = .ptSetPulseLength p'.pulseLength) := by
  cases h
  case setFrequency v => exact ⟨fun _ => rfl, absurd rfl⟩
  case setPulseLength v => exact ⟨absurd rfl, fun _ => rfl⟩
  case isFiring now =>
    exact ⟨absurd (PulseTimerOf.reanchor_frequency _ now), absurd (PulseTimerOf.reanchor_pulseLength _ now)⟩
  all_goals exact ⟨absurd rfl, absurd rfl⟩

section Registers

variable {ch : Channel} {c c' : Controller} {i : Instr} {es : List Event} (h : ChannelEffect ch c i c' es)
include h

/-- Only `CTL.ENABLE` and `CTL.DISABLE` change a channel's enabled flag, and only `CTL.DISABLE` and an enabled `CTL.STEP` the state of
its timer (10_state.md R23, R29). -/
theorem ChannelEffect.flags :
    (c'.enabled ≠ c.enabled → (i = .ctlEnable ch ∧ c'.enabled = true) ∨ (i = .ctlDisable ch ∧ c'.enabled = false)) ∧
      (c'.pulse.running ≠ c.pulse.running →
        (i = .ctlDisable ch ∧ c'.pulse.running = false) ∨ (c.enabled = true ∧ ∃ now m, i = .ctlStep ch now m)) := by
  cases h
  case step now m henabled => exact ⟨absurd rfl, fun _ => .inr ⟨henabled, now, m, rfl⟩⟩
  case enable => exact ⟨fun _ => .inl ⟨rfl, rfl⟩, absurd rfl⟩
  case disable => exact ⟨fun _ => .inr ⟨rfl, rfl⟩, fun _ => .inl ⟨rfl, rfl⟩⟩
  case isRunning now => exact ⟨absurd rfl, absurd (PulseTimerOf.reanchor_running _ now)⟩
  all_goals exact ⟨absurd rfl, absurd rfl⟩

/-- Only the sets change a channel's threshold and lengths, to their operands (10_state.md R24, R25, R28). -/
theorem ChannelEffect.configuration :
    (c'.humidityThreshold ≠ c.humidityThreshold → i = .ctlSetThreshold ch c'.humidityThreshold) ∧
      (c'.pulse.frequency ≠ c.pulse.frequency → i = .ctlSetFrequency ch c'.pulse.frequency) ∧
      (c'.pulse.pulseLength ≠ c.pulse.pulseLength → i = .ctlSetPulseLength ch c'.pulse.pulseLength) := by
  cases h
  case setThreshold v => exact ⟨fun _ => rfl, absurd rfl, absurd rfl⟩
  case setFrequency v => exact ⟨absurd rfl, fun _ => rfl, absurd rfl⟩
  case setPulseLength v => exact ⟨absurd rfl, absurd rfl, fun _ => rfl⟩
  case step now m henabled => exact ⟨absurd rfl, absurd (by simp), absurd (by simp)⟩
  case isRunning now =>
    exact ⟨absurd rfl, absurd (PulseTimerOf.reanchor_frequency _ now), absurd (PulseTimerOf.reanchor_pulseLength _ now)⟩
  all_goals exact ⟨absurd rfl, absurd rfl, absurd rfl⟩

end Registers

/-! ### The anchor -/

/-- An anchor that a poll moved is its `now`, and the timer was Active with its cycle over (41_pulse_timer.md R143). -/
theorem anchorAfter_of_moved {ts : Nat} {p : PulseTimerOf ts} {now : BitVec ts}
    (h : Claim.anchorAfter p now ≠ p.lastCycleStart) :
    p.running = true ∧ Claim.anchorAfter p now = now ∧ p.frequency.toNat < Claim.elapsed now p.lastCycleStart := by
  unfold Claim.anchorAfter at h ⊢
  split
  · next hover => exact ⟨hover.1, rfl, hover.2⟩
  · next hover => exact absurd (if_neg hover) h

/-! ### What an operation reads -/

/-- A controller operation reads the clock exactly where it is `CTL.IS_RUNNING` or an enabled `CTL.STEP` (60_exceptions.md R212). -/
theorem ChannelEffect.clockReads_cases {ch : Channel} {c c' : Controller} {i : Instr} {es : List Event}
    (h : ChannelEffect ch c i c' es) :
    clockReadsOf es = [] ∨ (∃ now, i = .ctlIsRunning ch now ∧ clockReadsOf es = [(.channel ch, now)]) ∨
      ∃ now m, i = .ctlStep ch now m ∧ c.enabled = true ∧ clockReadsOf es = [(.channel ch, now)] := by
  cases h
  case isRunning now => exact .inr (.inl ⟨now, rfl, rfl⟩)
  case step now m henabled => exact .inr (.inr ⟨now, m, rfl, henabled, rfl⟩)
  all_goals exact .inl rfl

/-- A controller operation reads the sensor exactly where it is `CTL.GET_MOISTURE` or an enabled `CTL.STEP` (42_controller.md
R172). -/
theorem ChannelEffect.sensorReads_cases {ch : Channel} {c c' : Controller} {i : Instr} {es : List Event}
    (h : ChannelEffect ch c i c' es) :
    sensorReadsOf es = [] ∨ (∃ m, i = .ctlGetMoisture ch m ∧ sensorReadsOf es = [(ch, m)]) ∨
      ∃ now m, i = .ctlStep ch now m ∧ c.enabled = true ∧ sensorReadsOf es = [(ch, m)] := by
  cases h
  case getMoisture m => exact .inr (.inl ⟨m, rfl, rfl⟩)
  case step now m henabled => exact .inr (.inr ⟨now, m, rfl, henabled, rfl⟩)
  all_goals exact .inl rfl

/-- An operation of the standalone timer reads the clock exactly where it is `PT.IS_FIRING`, and never the sensor (R212). -/
theorem TimerEffect.reads {p p' : PulseTimer} {i : Instr} {es : List Event} (h : TimerEffect p i p' es) :
    (clockReadsOf es = [] ∨ ∃ now, i = .ptIsFiring now ∧ clockReadsOf es = [(.timer, now)]) ∧ sensorReadsOf es = [] := by
  cases h
  case isFiring now => exact ⟨.inr ⟨now, rfl, rfl⟩, rfl⟩
  all_goals exact ⟨.inl rfl, rfl⟩

/-! ### Repeated writes -/

/-- An operation on a channel that writes the same record when it runs again, run twice: the second run changes no register. -/
theorem onChannel_again {op : Controller → Reply Controller} (hagain : ∀ c, (op (op c).unit).unit = (op c).unit) {ch : Channel}
    {s t : State} (h : onChannel ch op s = .next t) :
    ∃ u c, onChannel ch op t = .next u ∧ u.channels = t.channels ∧ u.timer = t.timer ∧
      u.trace = t.trace ++ (op c).events := by
  obtain ⟨c, hc, rfl⟩ := onChannel_next h
  have hwritten : (((s.setChannel ch (op c).unit).emit (op c).events).answer (op c).result).channels[ch.toNat]? =
      some (op c).unit := State.setChannel_same hc
  have hsame := congrArg State.channels (State.setChannel_self hwritten)
  exact ⟨_, (op c).unit, onChannel_of_some op hwritten, by rw [hagain]; exact hsame, rfl, rfl⟩

/-- A write on a channel without events, run again, changes no register and adds nothing to the trace. -/
theorem onChannel_silent_again {i : Instr} {ch : Channel} {op : Controller → Reply Controller} {s t : State}
    (h : exec i s = .next t) (ho : ∀ s, exec i s = onChannel ch op s) (hagain : ∀ c, (op (op c).unit).unit = (op c).unit)
    (hsilent : ∀ c, (op c).events = []) :
    ∃ u, exec i t = .next u ∧ u.channels = t.channels ∧ u.timer = t.timer ∧ u.trace = t.trace := by
  obtain ⟨u, c, hu, hchannels, htimer, htrace⟩ := onChannel_again hagain ((ho s).symm.trans h)
  exact ⟨u, (ho t).trans hu, hchannels, htimer, by rw [htrace, hsilent, List.append_nil]⟩

/-- A write on the standalone timer without events, run again, changes no register and adds nothing to the trace. -/
theorem onTimer_silent_again {i : Instr} {op : PulseTimer → Reply PulseTimer} {s t : State} (h : exec i s = .next t)
    (ho : ∀ s, exec i s = onTimer op s) (hagain : ∀ p, (op (op p).unit).unit = (op p).unit)
    (hsilent : ∀ p, (op p).events = []) :
    ∃ u, exec i t = .next u ∧ u.channels = t.channels ∧ u.timer = t.timer ∧ u.trace = t.trace := by
  obtain rfl := onTimer_next ((ho s).symm.trans h)
  exact ⟨_, (ho _).trans (onTimer_of_no_events (hsilent _)), rfl, hagain s.timer, rfl⟩

/-! ### The statements -/

/-- Settles O48: the operation finds no record. -/
theorem missingChannelIsRefused : Obligations.MissingChannelIsRefused := by
  intro i s ch hi hmissing
  obtain ⟨op, hop⟩ := exec_onChannel hi
  exact (hop s).trans (onChannel_of_none op (List.getElem?_eq_none hmissing))

/-- Settles O49: each effect writes one channel's record, the timer's record, or neither. -/
theorem operationsWriteTheirOwnUnit : Obligations.OperationsWriteTheirOwnUnit := by
  intro i s t h
  refine ⟨(exec_keeps_shape h).2, fun d => exec_keeps_other_channel h, ?_, ?_⟩
  · intro hunit
    obtain ⟨ch, c, c', es, r, -, -, rfl⟩ | ⟨p, es, r, heff, rfl⟩ | ⟨r, -, rfl⟩ := exec_next_effect h
    · rfl
    · obtain ⟨hchannel, hcodec⟩ := heff.unit
      simp [hchannel, hcodec] at hunit
    · rfl
  · intro hnone
    obtain ⟨ch, c, c', es, r, -, heff, -⟩ | ⟨p, es, r, -, rfl⟩ | ⟨r, -, rfl⟩ := exec_next_effect h
    · cases hnone.symm.trans heff.channel?
    · rfl
    · rfl

/-- Settles O50: the instruction is one operation, applied to the one record that both states hold. -/
theorem operationsReadTheirOwnChannel : Obligations.OperationsReadTheirOwnChannel := by
  intro i ch s s' t hi hrecord h
  obtain ⟨op, hop⟩ := exec_onChannel hi
  obtain ⟨c, hc, rfl⟩ := onChannel_next ((hop s).symm.trans h)
  have hc' : s'.channels[ch.toNat]? = some c := hrecord.symm.trans hc
  refine ⟨_, (op c).result, (op c).events, (hop s').trans (onChannel_of_some op hc'), ?_, rfl, rfl, rfl, rfl⟩
  exact (State.setChannel_same hc').trans (State.setChannel_same hc).symm

/-- Settles O51: every instruction but these two keeps the pump. -/
theorem onlyStepAndDisableDriveThePump : Obligations.OnlyStepAndDisableDriveThePump := by
  intro i s t ch c c' h hc hc' hdriven
  by_contra hnone
  rw [not_or] at hnone
  obtain ⟨hdisable, hstep⟩ := hnone
  obtain ⟨hlevel, hwrites⟩ := exec_keeps_pump h hdisable fun d now m hd henabled hi => by
    cases hc.symm.trans hd
    exact hstep ⟨henabled, now, m, hi⟩
  rw [hc, hc'] at hlevel
  exact hdriven.elim (absurd (Option.some.inj hlevel)) (absurd hwrites)

/-- Settles O52: only the polls among the effects write an anchor, and a poll moves it as R143 says. -/
theorem onlyPollsMoveTheAnchor : Obligations.OnlyPollsMoveTheAnchor := by
  intro i s t h
  refine ⟨fun hmoved => ?timer, fun ch c c' hc hc' hmoved => ?channel⟩
  case timer =>
    obtain heq | ⟨es, heff⟩ := exec_timer_cases h
    · exact absurd (by rw [heq]) hmoved
    · generalize t.timer = p at heff hmoved
      cases heff
      case isFiring now =>
        rw [PulseTimerOf.reanchor_lastCycleStart_eq_anchorAfter] at hmoved ⊢
        obtain ⟨hrunning, hnow, hover⟩ := anchorAfter_of_moved hmoved
        exact ⟨now, rfl, hrunning, hnow, hover⟩
      all_goals exact absurd rfl hmoved
  case channel =>
    obtain rfl | ⟨es, heff⟩ := exec_record_cases h hc hc'
    · exact absurd rfl hmoved
    · cases heff
      case step now m henabled =>
        rw [ControllerOf.stepped_fst, PulseTimerOf.reanchor_lastCycleStart_eq_anchorAfter] at hmoved ⊢
        rw [← c.armed_lastCycleStart m] at hmoved
        obtain ⟨hrunning, hnow, hover⟩ := anchorAfter_of_moved hmoved
        rw [ControllerOf.armed_frequency, ControllerOf.armed_lastCycleStart] at hover
        exact ⟨now, .inr ⟨m, rfl⟩, (PulseTimerOf.reanchor_running _ now).trans hrunning, hnow, hover⟩
      case isRunning now =>
        rw [PulseTimerOf.reanchor_lastCycleStart_eq_anchorAfter] at hmoved ⊢
        obtain ⟨hrunning, hnow, hover⟩ := anchorAfter_of_moved hmoved
        exact ⟨now, .inl rfl, (PulseTimerOf.reanchor_running _ now).trans hrunning, hnow, hover⟩
      all_goals exact absurd rfl hmoved

/-- Settles O53: the effects that write a flag are those of the operations named. -/
theorem flagsHaveTheirWritersOnly : Obligations.FlagsHaveTheirWritersOnly := by
  intro i s t h
  refine ⟨?timer, fun ch c c' hc hc' => ?channel⟩
  case timer =>
    obtain heq | ⟨es, heff⟩ := exec_timer_cases h
    · rw [heq]
      exact absurd rfl
    · exact heff.running
  case channel =>
    obtain rfl | ⟨es, heff⟩ := exec_record_cases h hc hc'
    · exact ⟨absurd rfl, absurd rfl⟩
    · exact heff.flags

/-- Settles O54: of the effects only a set writes a configuration register, and it writes the operand. -/
theorem configurationHasItsWritersOnly : Obligations.ConfigurationHasItsWritersOnly := by
  intro i s t h
  rw [← and_assoc]
  refine ⟨?timer, fun ch c c' hc hc' => ?channel⟩
  case timer =>
    obtain heq | ⟨es, heff⟩ := exec_timer_cases h
    · rw [heq]
      exact ⟨absurd rfl, absurd rfl⟩
    · exact heff.configuration
  case channel =>
    obtain rfl | ⟨es, heff⟩ := exec_record_cases h hc hc'
    · exact ⟨absurd rfl, absurd rfl, absurd rfl⟩
    · exact heff.configuration

/-- Settles O55: what each effect reads, and that a reader's effect is the one with its reading. -/
theorem inputsAreReadByTheirOperationsOnly : Obligations.InputsAreReadByTheirOperationsOnly := by
  intro i s t h
  obtain ⟨ch, c, c', es, r, hc, heff, rfl⟩ | ⟨p, es, r, heff, rfl⟩ | ⟨r, hcodec, rfl⟩ := exec_next_effect h
  case inl =>
    refine ⟨es, rfl, ?clock, ?sensor, ?_, ?_, ?_, ?_⟩
    case clock =>
      obtain hnone | ⟨now, hi, hread⟩ | ⟨now, m, hi, henabled, hread⟩ := heff.clockReads_cases
      · exact .inl hnone
      · exact .inr (.inr (.inl ⟨ch, now, hi, hread⟩))
      · exact .inr (.inr (.inr ⟨ch, now, m, c, hi, hc, henabled, hread⟩))
    case sensor =>
      obtain hnone | ⟨m, hi, hread⟩ | ⟨now, m, hi, henabled, hread⟩ := heff.sensorReads_cases
      · exact .inl hnone
      · exact .inr (.inl ⟨ch, m, hi, hread⟩)
      · exact .inr (.inr ⟨ch, now, m, c, hi, hc, henabled, hread⟩)
    · rintro now rfl
      cases heff
    · rintro d now rfl
      cases heff
      rfl
    · rintro d m rfl
      cases heff
      rfl
    · rintro d now m b rfl hb henabled
      cases heff
      case step => exact ⟨_, rfl⟩
      case stepDisabled hdisabled =>
        cases hc.symm.trans hb
        cases henabled.symm.trans hdisabled
  case inr.inl =>
    obtain ⟨hchannel, -⟩ := heff.unit
    obtain ⟨hclock, hsensor⟩ := heff.reads
    refine ⟨es, rfl, ?_, .inl hsensor, ?_, ?_, ?_, ?_⟩
    · exact hclock.imp id .inl
    · rintro now rfl
      cases heff
      rfl
    · rintro d now rfl
      cases hchannel
    · rintro d m rfl
      cases hchannel
    · rintro d now m b rfl
      cases hchannel
  case inr.inr =>
    refine ⟨[], (List.append_nil _).symm, .inl rfl, .inl rfl, ?_, ?_, ?_, ?_⟩
    · rintro now rfl
      cases hcodec
    · rintro d now rfl
      cases hcodec
    · rintro d m rfl
      cases hcodec
    · rintro d now m b rfl
      cases hcodec

/-- Settles O56: each operation writes the same record again, and only `CTL.DISABLE` has an event. -/
theorem writesAreIdempotent : Obligations.WritesAreIdempotent := by
  intro s t i hi h
  by_cases hdisable : ∃ ch, i = .ctlDisable ch
  · obtain ⟨ch, rfl⟩ := hdisable
    obtain ⟨u, c, hu, hchannels, htimer, htrace⟩ := onChannel_again (fun _ => rfl) (h : execCtlDisable ch s = .next t)
    refine ⟨u, hu, hchannels, htimer, fun d hd => ?_, fun hne => absurd rfl (hne ch)⟩
    cases hd
    exact htrace
  · have hsilent : ∃ u, exec i t = .next u ∧ u.channels = t.channels ∧ u.timer = t.timer ∧ u.trace = t.trace := by
      obtain rfl | rfl | ⟨v, rfl⟩ | ⟨v, rfl⟩ | ⟨ch, rfl | rfl | ⟨v, rfl⟩ | ⟨v, rfl⟩ | ⟨v, rfl⟩⟩ := hi
      · exact onTimer_silent_again h execPtActivate.eq_1 (fun _ => rfl) fun _ => rfl
      · exact onTimer_silent_again h execPtDeactivate.eq_1 (fun _ => rfl) fun _ => rfl
      · exact onTimer_silent_again h (execPtSetPulseLength.eq_1 v) (fun _ => rfl) fun _ => rfl
      · exact onTimer_silent_again h (execPtSetFrequency.eq_1 v) (fun _ => rfl) fun _ => rfl
      · exact onChannel_silent_again h (execCtlEnable.eq_1 ch) (fun _ => rfl) fun _ => rfl
      · exact absurd ⟨ch, rfl⟩ hdisable
      · exact onChannel_silent_again h (execCtlSetThreshold.eq_1 ch v) (fun _ => rfl) fun _ => rfl
      · exact onChannel_silent_again h (execCtlSetPulseLength.eq_1 ch v) (fun _ => rfl) fun _ => rfl
      · exact onChannel_silent_again h (execCtlSetFrequency.eq_1 ch v) (fun _ => rfl) fun _ => rfl
    obtain ⟨u, hu, hchannels, htimer, htrace⟩ := hsilent
    exact ⟨u, hu, hchannels, htimer, fun ch hch => absurd ⟨ch, hch⟩ hdisable, fun _ => htrace⟩

end Sys2Proof.Machine
end

section
/-! SUPPORT. Construction, the machine's invariant, and runs of the operation stream (spec/70_reset_and_hazards.md R230 to R233;
spec/42_controller.md R184, R185; spec/20_memory.md R60). -/

namespace Sys2Proof.Machine

/-! ### Construction -/

/-- Constructing some channels writes the pump of each off, once for each time it is constructed (R230). -/
theorem pumpWritesOf_construction (ch : Channel) (l : List Channel) :
    pumpWritesOf ch (l.flatMap constructionEvents) = List.replicate (l.count ch) .high := by
  induction l with
  | nil => rfl
  | cons d l ih =>
    rw [List.flatMap_cons, pumpWritesOf_append, ih]
    by_cases h : d = ch
    · subst h
      simp [constructionEvents, pumpWritesOf, Config.pumpOffLevel, List.replicate_succ]
    · simp [constructionEvents, pumpWritesOf, h]

/-- Constructing some channels reads the clock once for each (R230, R212). -/
theorem clockReadsOf_construction (l : List Channel) :
    clockReadsOf (l.flatMap constructionEvents) = l.map fun ch => (.channel ch, Config.now0 ch) := by
  induction l with
  | nil => rfl
  | cons d l ih =>
    rw [List.flatMap_cons, clockReadsOf_append, ih]
    rfl

/-- The clock readings of construction are those of the channel units and then that of the standalone timer (R230, R231). -/
theorem clockReadsOf_reset :
    clockReadsOf State.reset.trace =
      (channelIndexes.map fun ch => (Reader.channel ch, Config.now0 ch)) ++ [(.timer, Config.timerNow0)] := by
  rw [State.reset, clockReadsOf_append, clockReadsOf_construction]
  rfl

/-- Construction writes each pump once, off (R230). -/
theorem pumpWritesOf_reset {ch : Channel} (h : ch.toNat < Config.numChannels) : pumpWritesOf ch State.reset.trace = [.high] := by
  have hcount : channelIndexes.count ch = 1 :=
    List.count_eq_one_of_mem channelIndexes_nodup (List.mem_of_getElem? (channelIndexes_get h))
  rw [State.reset, pumpWritesOf_append, pumpWritesOf_construction, hcount]
  rfl

/-- There is one channel unit for each index after construction. -/
theorem reset_channels_length : State.reset.channels.length = Config.numChannels := by simp [State.reset, channelIndexes]

/-- Among readings of distinct channels, one channel has its own reading alone. -/
theorem filter_channel_reads {l : List Channel} (hnodup : l.Nodup) {ch : Channel} (h : ch ∈ l) (f : Channel → Timestamp) :
    ((l.map fun d => (Reader.channel d, f d)).filter fun e => e.1 = .channel ch) = [(.channel ch, f ch)] := by
  simp only [List.filter_map, Function.comp_def, Reader.channel.injEq, List.filter_eq, List.count_eq_one_of_mem hnodup h]
  rfl

/-! ### The invariant -/

/-- Every record of at most 256 channel units has an index. -/
theorem exists_channel_of_mem {l : List Controller} {c : Controller} (hlen : l.length ≤ 256) (h : c ∈ l) :
    ∃ ch : Channel, l[ch.toNat]? = some c := by
  obtain ⟨n, hn, hc⟩ := List.getElem_of_mem h
  have hch : (BitVec.ofNat 8 n).toNat = n := by
    rw [BitVec.toNat_ofNat]
    omega
  exact ⟨BitVec.ofNat 8 n, by rw [hch, List.getElem?_eq_getElem hn, hc]⟩

/-- A timer that fires is Active (R143 step 3). -/
theorem PulseTimerOf.running_of_firesAt {ts : Nat} {p : PulseTimerOf ts} {now : BitVec ts} (h : p.firesAt now = true) :
    p.running = true := by
  rw [PulseTimerOf.firesAt, Bool.and_eq_true] at h
  exact h.1

/-- The pump is driven on exactly to show that the timer fires (R170 step 5). -/
theorem pumpLevel_eq_low {b : Bool} : pumpLevel b = .low ↔ b = true := by cases b <;> decide

/-- An operation on a channel keeps a disabled channel off and Idle (R184). -/
theorem ChannelEffect.disabledIsOff {ch : Channel} {c c' : Controller} {i : Instr} {es : List Event}
    (h : ChannelEffect ch c i c' es) (hc : c.DisabledIsOff) : c'.DisabledIsOff := by
  cases h
  case step now m henabled => exact fun hdisabled => absurd (henabled.symm.trans hdisabled) nofun
  case enable => exact nofun
  case disable => exact fun _ => ⟨rfl, rfl⟩
  case isRunning now =>
    intro hdisabled
    obtain ⟨hidle, hpump⟩ := hc hdisabled
    exact ⟨(PulseTimerOf.reanchor_running _ now).trans hidle, hpump⟩
  all_goals exact hc

/-- An operation on a channel keeps a running pump to an enabled channel with an Active timer (R170, R173, R174). -/
theorem ChannelEffect.pumpOnIsActive {ch : Channel} {c c' : Controller} {i : Instr} {es : List Event}
    (h : ChannelEffect ch c i c' es) (hc : c.PumpOnIsActive) : c'.PumpOnIsActive := by
  cases h
  case step now m henabled => exact fun hlow => ⟨henabled, PulseTimerOf.running_of_firesAt (pumpLevel_eq_low.1 hlow)⟩
  case enable => exact fun hlow => ⟨rfl, (hc hlow).2⟩
  case disable => exact nofun
  case isRunning now =>
    intro hlow
    obtain ⟨henabled, hactive⟩ := hc hlow
    exact ⟨henabled, (PulseTimerOf.reanchor_running _ now).trans hactive⟩
  all_goals exact hc

/-- An operation on a channel leaves the pump output at the level last written to it (R31). -/
theorem ChannelEffect.pumpOutIsLastWrite {ch : Channel} {c c' : Controller} {i : Instr} {es : List Event} {writes : List Level}
    (h : ChannelEffect ch c i c' es) (hc : writes.getLast? = some c.pumpOut) :
    (writes ++ pumpWritesOf ch es).getLast? = some c'.pumpOut := by
  cases h
  case step now m henabled => simp [pumpWritesOf]
  case disable => simp [pumpWritesOf]
  all_goals simpa [pumpWritesOf] using hc

/-- Every instruction keeps the invariant. -/
theorem exec_keeps_inv {i : Instr} {s t : State} (hinv : s.Inv) (h : exec i s = .next t) : t.Inv := by
  have hcount : t.channels.length = Config.numChannels := (exec_keeps_shape h).2.trans hinv.channelCount
  have hsafe (ch : Channel) (c' : Controller) (hc' : t.channels[ch.toNat]? = some c') :
      c'.DisabledIsOff ∧ c'.PumpOnIsActive ∧ (pumpWritesOf ch t.trace).getLast? = some c'.pumpOut := by
    by_cases hi : i.channel? = some ch
    · obtain ⟨c, d, es, hc, hd, heff, htrace⟩ := exec_channel_effect h hi
      cases hc'.symm.trans hd
      rw [htrace, pumpWritesOf_append]
      exact ⟨heff.disabledIsOff (hinv.disabledIsOff c (List.mem_of_getElem? hc)),
        heff.pumpOnIsActive (hinv.pumpOnIsActive c (List.mem_of_getElem? hc)),
        heff.pumpOutIsLastWrite (hinv.pumpOutIsLastWrite ch c hc)⟩
    · obtain ⟨hrecord, hwrites⟩ := exec_keeps_other_channel h hi
      have hc := hrecord.symm.trans hc'
      rw [hwrites]
      exact ⟨hinv.disabledIsOff c' (List.mem_of_getElem? hc), hinv.pumpOnIsActive c' (List.mem_of_getElem? hc),
        hinv.pumpOutIsLastWrite ch c' hc⟩
  have hindex {c' : Controller} := exists_channel_of_mem (c := c') (hcount.trans_le numChannels_le)
  refine ⟨hcount, fun c' hmem => ?_, fun c' hmem => ?_, fun ch c' hc' => (hsafe ch c' hc').2.2⟩
  · obtain ⟨ch, hc'⟩ := hindex hmem
    exact (hsafe ch c' hc').1
  · obtain ⟨ch, hc'⟩ := hindex hmem
    exact (hsafe ch c' hc').2.1

/-- The invariant does not speak of the operation stream. -/
theorem State.Inv.with_pending {s : State} (h : s.Inv) (pending : List Issue) : State.Inv { s with pending := pending } :=
  ⟨h.channelCount, h.disabledIsOff, h.pumpOnIsActive, h.pumpOutIsLastWrite⟩

/-! ### The statements about construction and the invariant -/

/-- Settles O1: each index is constructed once. -/
theorem constructionLeavesResetValues : Obligations.ConstructionLeavesResetValues := by
  refine ⟨reset_channels_length, fun ch hch => ⟨State.reset_channel hch, pumpWritesOf_reset hch, ?channel⟩, rfl, ?timer⟩
  case channel =>
    have hmem : ch ∈ channelIndexes := List.mem_of_getElem? (channelIndexes_get hch)
    rw [clockReadsOf_reset, List.filter_append, filter_channel_reads channelIndexes_nodup hmem]
    rfl
  case timer =>
    have hnone : ((channelIndexes.map fun ch => (Reader.channel ch, Config.now0 ch)).filter fun e => e.1 = .timer) = [] := by
      simp
    rw [clockReadsOf_reset, List.filter_append, hnone]
    rfl

/-- Settles O2: each channel unit is enabled, and off by its one write. -/
theorem resetMeetsInvariant : Obligations.ResetMeetsInvariant := by
  have hreset {c : Controller} (hc : c ∈ State.reset.channels) : c.enabled = true ∧ c.pumpOut = .high := by
    obtain ⟨ch, -, rfl⟩ := List.mem_map.1 hc
    exact ⟨rfl, rfl⟩
  refine ⟨reset_channels_length, fun c hc hdisabled => ?_, fun c hc hlow => ?_, fun ch c hc => ?_⟩
  · cases (hreset hc).1.symm.trans hdisabled
  · cases (hreset hc).2.symm.trans hlow
  · have hch : ch.toNat < Config.numChannels := reset_channels_length ▸ (List.getElem?_eq_some_iff.1 hc).1
    rw [pumpWritesOf_reset hch, (hreset (List.mem_of_getElem? hc)).2]
    rfl

/-- Settles O3: a step waits, or executes an instruction, which keeps the invariant of each channel. -/
theorem everyStepKeepsInvariant : Obligations.EveryStepKeepsInvariant := by
  intro s t hinv h
  obtain ⟨-, rfl⟩ | ⟨q, rest, i, -, -, hexec⟩ := step_next_cases h
  · exact hinv
  · exact exec_keeps_inv (hinv.with_pending rest) hexec

/-- Settles O4: the invariant holds after construction and is kept by every step of the run. -/
theorem disabledChannelIsOffInEveryRun : Obligations.DisabledChannelIsOffInEveryRun := by
  intro operations n t hrun
  exact (run_keeps everyStepKeepsInvariant n (resetMeetsInvariant.with_pending operations) hrun).disabledIsOff

/-! ### Runs -/

/-- A step of the machine whose pending packets do not drive a pump keeps its level and adds no write of it (R185). -/
theorem step_keeps_pump {ch : Channel} {s t : State}
    (hquiet : ∀ q ∈ s.pending, ∀ i, decode q = .ok i → ¬ Claim.DrivesPump ch i) (h : step s = .next t) :
    (∀ q ∈ t.pending, ∀ i, decode q = .ok i → ¬ Claim.DrivesPump ch i) ∧
      (t.channels[ch.toNat]?).map (·.pumpOut) = (s.channels[ch.toNat]?).map (·.pumpOut) ∧
      pumpWritesOf ch t.trace = pumpWritesOf ch s.trace := by
  obtain ⟨-, rfl⟩ | ⟨q, rest, i, hpending, hdecode, hexec⟩ := step_next_cases h
  · exact ⟨hquiet, rfl, rfl⟩
  · rw [hpending] at hquiet
    have hdrive : ¬ Claim.DrivesPump ch i := hquiet q List.mem_cons_self i hdecode
    have hkept := exec_keeps_pump hexec (fun hi => hdrive (.inl hi)) fun _ now m _ _ hi => hdrive (.inr ⟨now, m, hi⟩)
    refine ⟨?_, hkept⟩
    rw [(exec_keeps_shape hexec).1]
    exact fun q' hq' => hquiet q' (List.mem_cons_of_mem q hq')

/-- A run whose pending packets do not drive a pump keeps its level and adds no write of it (R185). -/
theorem run_keeps_pump {ch : Channel} {s u : State} (n : Nat)
    (hquiet : ∀ q ∈ s.pending, ∀ i, decode q = .ok i → ¬ Claim.DrivesPump ch i) (hrun : Host.Core.run core n s = .next u) :
    (u.channels[ch.toNat]?).map (·.pumpOut) = (s.channels[ch.toNat]?).map (·.pumpOut) ∧
      pumpWritesOf ch u.trace = pumpWritesOf ch s.trace := by
  induction n generalizing s with
  | zero =>
    cases hrun
    exact ⟨rfl, rfl⟩
  | succ n ih =>
    obtain ⟨t, hstep, hrest⟩ := run_succ_next hrun
    obtain ⟨hquiet', hlevel, hwrites⟩ := step_keeps_pump hquiet hstep
    obtain ⟨hlevel', hwrites'⟩ := ih hquiet' hrest
    exact ⟨hlevel'.trans hlevel, hwrites'.trans hwrites⟩

/-- Well-formed instructions on existing channels, at the head of the stream, run in as many steps: each adds one result, and the
trace and the results only grow (20_memory.md R60). -/
theorem run_operations {operations : List Instr} {s : State} {rest : List Issue} (hwf : ∀ i ∈ operations, i.wf = true)
    (hexists : ∀ i ∈ operations, ∀ ch, i.channel? = some ch → ch.toNat < s.channels.length)
    (hpending : s.pending = operations.map encode ++ rest) :
    ∃ t, Host.Core.run core operations.length s = .next t ∧ t.pending = rest ∧
      t.results.length = s.results.length + operations.length ∧ s.results <+: t.results ∧ s.trace <+: t.trace := by
  induction operations generalizing s with
  | nil => exact ⟨s, rfl, hpending, rfl, List.prefix_rfl, List.prefix_rfl⟩
  | cons i operations ih =>
    have hstep := step_of_decode hpending (decodeInvertsEncode i (hwf i List.mem_cons_self))
    obtain ⟨u, r, es, hexec, hresults, htrace, hu⟩ := everyOperationCompletes i
      { s with pending := operations.map encode ++ rest } (hexists i List.mem_cons_self)
    have hlen : u.channels.length = s.channels.length := (exec_keeps_shape hexec).2
    obtain ⟨t, hrun, ht, hcount, hresults', htrace'⟩ := ih (fun j hj => hwf j (List.mem_cons_of_mem i hj))
      (fun j hj ch hch => hlen ▸ hexists j (List.mem_cons_of_mem i hj) ch hch) hu
    refine ⟨t, (run_succ _ (hstep.trans hexec)).trans hrun, ht, ?_, ?_, ?_⟩
    · simp only [hcount, hresults, List.length_append, List.length_cons, List.length_nil]
      omega
    · exact (List.prefix_append s.results [r]).trans (hresults ▸ hresults')
    · exact (List.prefix_append s.trace es).trans (htrace ▸ htrace')

/-! ### The statements about runs -/

/-- Settles O45: the enabled step drives the pump to its answer, and every later step of the run keeps the level. -/
theorem pumpHoldsItsLevelAfterAStep : Obligations.PumpHoldsItsLevelAfterAStep := by
  intro s ch now m c hc henabled
  have hstep := exec_ctlStep_of_enabled hc now m henabled
  have hlevel := congrArg (Option.map ControllerOf.pumpOut) (State.setChannel_same (c' := (c.stepped now m).1) hc)
  refine ⟨_, (c.stepped now m).2, pumpLevel (c.stepped now m).2, hstep, rfl, rfl, hlevel, fun n u hquiet hrun => ?_⟩
  obtain ⟨hlevel', hwrites⟩ := run_keeps_pump n hquiet hrun
  exact ⟨hlevel'.trans hlevel, hwrites⟩

/-- Settles O57: a step with nothing pending answers the same state. -/
theorem nothingAdvancesWithoutAnOperation : Obligations.NothingAdvancesWithoutAnOperation := by
  have hwaits (s : State) (n : Nat) (hpending : s.pending = []) : Host.Core.run core n s = .next s := by
    have hstep : step s = .next s := by rw [step, fetch_nil hpending]
    induction n with
    | zero => rfl
    | succ n ih => exact (run_succ n hstep).trans ih
  exact ⟨hwaits, fun n => hwaits State.reset n rfl⟩

/-- Settles O58: the stream's head runs whole, and so does each of its first parts, after which the last part is left. -/
theorem operationsRunInTheOrderIssued : Obligations.OperationsRunInTheOrderIssued := by
  intro operations s rest hwf hexists hpending
  obtain ⟨t, hrun, ht, hcount, hresults, htrace⟩ := run_operations hwf hexists hpending
  refine ⟨t, hrun, ht, hcount, hresults, htrace, ?_⟩
  rintro first last rfl
  rw [List.map_append, List.append_assoc] at hpending
  obtain ⟨u, hfirst, hu, -⟩ := run_operations (fun i hi => hwf i (List.mem_append_left last hi))
    (fun i hi => hexists i (List.mem_append_left last hi)) hpending
  refine ⟨u, hfirst, hu, ?_⟩
  rw [← run_add last.length hfirst, ← List.length_append]
  exact hrun

end Sys2Proof.Machine
end

section
/-! SUPPORT. The poll in true time, and the statements about the timer and the enabled step (spec/41_pulse_timer.md R142 to R156;
spec/42_controller.md R170, R186; spec/70_reset_and_hazards.md R243). -/

namespace Sys2Proof.Machine

/-! ### Elapsed times and polls as numbers -/

section Poll

variable {ts : Nat} {p : PulseTimerOf ts} {now : BitVec ts}

/-- No time has passed at the anchor (R12). -/
@[simp] theorem claimElapsed_self (a : BitVec ts) : Claim.elapsed a a = 0 := by
  rw [Claim.elapsed, ← elapsed_toNat, elapsed_self]
  rfl

/-- The elapsed time is the distance from the anchor on the counter (R12). -/
theorem ofNat_claimElapsed (a b : BitVec ts) : b + BitVec.ofNat ts (Claim.elapsed a b) = a := by
  rw [Claim.elapsed, ← elapsed_toNat, BitVec.ofNat_toNat, BitVec.setWidth_eq, elapsed, add_sub_cancel]

/-- Between true times less than a wrap apart, the elapsed time is the true one (R155). -/
theorem claimElapsed_ofNat {A T : Nat} (h : A ≤ T) (hwrap : T < A + 2 ^ ts) :
    Claim.elapsed (BitVec.ofNat ts T) (BitVec.ofNat ts A) = T - A := by
  rw [Claim.elapsed, ← elapsed_toNat, elapsed_ofNat h hwrap]

/-- On from an anchor, the elapsed time between two clock readings less than a wrap apart is the true one (R155). -/
theorem claimElapsed_add_add (a : BitVec ts) {j n : Nat} (h : j ≤ n) (hwrap : n < j + 2 ^ ts) :
    Claim.elapsed (a + BitVec.ofNat ts n) (a + BitVec.ofNat ts j) = n - j := by
  have hshift : elapsed (a + BitVec.ofNat ts n) (a + BitVec.ofNat ts j) = elapsed (BitVec.ofNat ts n) (BitVec.ofNat ts j) :=
    add_sub_add_left_eq_sub ..
  rw [Claim.elapsed, ← elapsed_toNat, hshift, elapsed_ofNat h hwrap]

/-- As the clock goes on by `d`, so does the elapsed time, while it stays below the wrap. -/
theorem claimElapsed_later (now a : BitVec ts) {d : Nat} (h : Claim.elapsed now a + d < 2 ^ ts) :
    Claim.elapsed (now + BitVec.ofNat ts d) a = Claim.elapsed now a + d := by
  simp only [Claim.elapsed, ← elapsed_toNat] at h ⊢
  exact elapsed_add now a d h

/-- An Idle timer does not fire (R143 step 3). -/
theorem fires_idle (h : p.running = false) (now : BitVec ts) : Claim.fires p now = false := by simp [Claim.fires, h]

/-- A timer whose pulse length is 0 does not fire (R150). -/
theorem fires_of_pulseLength_zero (h : p.pulseLength = 0) (now : BitVec ts) : Claim.fires p now = false := by
  simp [Claim.fires, h]

/-- After a poll of an Active timer the elapsed time is at most the frequency (R149). -/
theorem elapsed_anchorAfter_le (hrunning : p.running = true) (now : BitVec ts) :
    Claim.elapsed now (Claim.anchorAfter p now) ≤ p.frequency.toNat := by
  unfold Claim.anchorAfter
  split
  · rw [claimElapsed_self]
    exact Nat.zero_le _
  · next hover => exact Nat.le_of_not_lt fun hlt => hover ⟨hrunning, hlt⟩

/-- A cycle that is over starts anew at the poll (R143 step 2). -/
theorem anchorAfter_of_over (hrunning : p.running = true) (hover : p.frequency.toNat < Claim.elapsed now p.lastCycleStart) :
    Claim.anchorAfter p now = now := if_pos ⟨hrunning, hover⟩

/-- At frequency 0 every poll of an Active timer anchors at its `now` (R151). -/
theorem anchorAfter_of_frequency_zero (hrunning : p.running = true) (hzero : p.frequency = 0) (now : BitVec ts) :
    Claim.anchorAfter p now = now := by
  have hle := elapsed_anchorAfter_le hrunning now
  have hself := ofNat_claimElapsed now (Claim.anchorAfter p now)
  rw [hzero] at hle
  have hnone : Claim.elapsed now (Claim.anchorAfter p now) = 0 := Nat.le_zero.1 hle
  rwa [hnone, BitVec.add_zero] at hself

/-- An Active timer whose pulse length is above its frequency fires at every poll (R152). -/
theorem fires_of_frequency_lt (hrunning : p.running = true) (hlt : p.frequency.toNat < p.pulseLength.toNat) (now : BitVec ts) :
    Claim.fires p now = true :=
  decide_eq_true ⟨hrunning, (elapsed_anchorAfter_le hrunning now).trans_lt hlt⟩

end Poll

/-! ### The poll of an Active timer, by its elapsed time -/

section ActivePoll

variable {s : State} {now : Timestamp} {e : Nat} (hrunning : s.timer.running = true)
  (helapsed : Claim.elapsed now s.timer.lastCycleStart = e)
include hrunning helapsed

/-- A poll of an Active timer whose cycle is over starts a cycle at `now` (R143). -/
theorem exec_ptIsFiring_over (hover : s.timer.frequency.toNat < e) :
    exec (.ptIsFiring now) s =
      .next { s with
        timer := { s.timer with lastCycleStart := now }
        trace := s.trace ++ [.clockRead .timer now]
        results := s.results ++ [.bool (decide (0 < s.timer.pulseLength.toNat))] } := by
  have hafter : Claim.anchorAfter s.timer now = now := anchorAfter_of_over hrunning (helapsed ▸ hover)
  have hfires : Claim.fires s.timer now = decide (0 < s.timer.pulseLength.toNat) := by
    simp only [Claim.fires, hafter, claimElapsed_self, hrunning, true_and]
  rw [isFiringFollowsItsSteps, hfires, Claim.polled, hafter]

/-- A poll of an Active timer within its cycle keeps the timer and answers whether the pulse lasts (R143). -/
theorem exec_ptIsFiring_within (hwithin : e ≤ s.timer.frequency.toNat) :
    exec (.ptIsFiring now) s =
      .next { s with
        trace := s.trace ++ [.clockRead .timer now]
        results := s.results ++ [.bool (decide (e < s.timer.pulseLength.toNat))] } := by
  have hafter : Claim.anchorAfter s.timer now = s.timer.lastCycleStart :=
    if_neg fun hover => (helapsed ▸ hover.2).not_ge hwithin
  have hfires : Claim.fires s.timer now = decide (e < s.timer.pulseLength.toNat) := by
    simp only [Claim.fires, hafter, helapsed, hrunning, true_and]
  rw [isFiringFollowsItsSteps, hfires, Claim.polled, hafter]

end ActivePoll

/-! ### Polls in true time -/

/-- The true time of the anchor after a poll at true time `T`, where `A` is that of the anchor before it and `F` the frequency
(R143 step 2). -/
def trueAnchor (F A T : Nat) : Nat := if F < T - A then T else A

/-- A poll of an Active timer in true time: `A` of the anchor and `T` of the poll, less than a wrap apart (R155). -/
theorem exec_ptIsFiring_trueTime {s : State} {A T : Nat} (hrunning : s.timer.running = true)
    (hanchor : s.timer.lastCycleStart = BitVec.ofNat Config.tsWidth A) (hle : A ≤ T) (hwrap : T < A + 2 ^ Config.tsWidth) :
    exec (.ptIsFiring (BitVec.ofNat Config.tsWidth T)) s =
      .next { s with
        timer := { s.timer with lastCycleStart := BitVec.ofNat Config.tsWidth (trueAnchor s.timer.frequency.toNat A T) }
        trace := s.trace ++ [.clockRead .timer (BitVec.ofNat Config.tsWidth T)]
        results := s.results ++ [.bool (decide (T - trueAnchor s.timer.frequency.toNat A T < s.timer.pulseLength.toNat))] } := by
  have helapsed : Claim.elapsed (BitVec.ofNat Config.tsWidth T) s.timer.lastCycleStart = T - A := by
    rw [hanchor, claimElapsed_ofNat hle hwrap]
  by_cases hover : s.timer.frequency.toNat < T - A
  · rw [exec_ptIsFiring_over hrunning helapsed hover, trueAnchor, if_pos hover, Nat.sub_self]
  · rw [exec_ptIsFiring_within hrunning helapsed (Nat.le_of_not_lt hover), trueAnchor, if_neg hover, ← hanchor]

/-! ### Polling at every time unit -/

/-- A unit poll beyond its cycle is `F + 1` after the start of that cycle, which is a multiple of `F + 1`, and so is its own time
(R148). -/
theorem unitPoll_over {F n : Nat} (h : F < n - (n - 1) / (F + 1) * (F + 1)) : n / (F + 1) * (F + 1) = n := by
  have hlast : n - 1 < (n - 1) / (F + 1) * (F + 1) + (F + 1) := Nat.lt_div_mul_add (Nat.succ_pos F)
  have hn : n = ((n - 1) / (F + 1) + 1) * (F + 1) := by
    rw [Nat.succ_mul]
    omega
  exact Nat.div_mul_cancel ⟨_, hn.trans (Nat.mul_comm ..)⟩

/-- A unit poll within its cycle starts no other (R148). -/
theorem unitPoll_within {F n : Nat} (h : n - (n - 1) / (F + 1) * (F + 1) ≤ F) : n / (F + 1) = (n - 1) / (F + 1) := by
  have hfirst : (n - 1) / (F + 1) * (F + 1) ≤ n - 1 := Nat.div_mul_le_self ..
  refine Nat.div_eq_of_lt_le (by omega) ?_
  rw [Nat.succ_mul]
  omega

/-- The timer `p` after the poll `n` units after its anchor, when it was polled at every unit before: the anchor is the start of the
last cycle begun (R148). -/
def unitPolled (p : PulseTimer) (n : Nat) : PulseTimer :=
  { p with
    lastCycleStart :=
      p.lastCycleStart + BitVec.ofNat Config.tsWidth (n / (p.frequency.toNat + 1) * (p.frequency.toNat + 1)) }

/-- One unit poll of the series, at the head of the stream (R148). -/
theorem step_unit_poll {p : PulseTimer} {t : State} {n : Nat} {rest : List Issue} (hrunning : p.running = true)
    (hwrap : p.frequency.toNat + 1 < 2 ^ Config.tsWidth) (htimer : t.timer = unitPolled p (n - 1))
    (hpending : t.pending = encode (.ptIsFiring (p.lastCycleStart + BitVec.ofNat Config.tsWidth n)) :: rest) :
    ∃ u, step t = .next u ∧ u.timer = unitPolled p n ∧
      u.results = t.results ++ [.bool (decide (n % (p.frequency.toNat + 1) < p.pulseLength.toNat))] ∧
      u.pending = rest ∧ u.channels = t.channels := by
  have hstep := step_of_decode hpending (decodeInvertsEncode _ rfl)
  have hfirst : (n - 1) / (p.frequency.toNat + 1) * (p.frequency.toNat + 1) ≤ n - 1 := Nat.div_mul_le_self ..
  have hlast : n - 1 < (n - 1) / (p.frequency.toNat + 1) * (p.frequency.toNat + 1) + (p.frequency.toNat + 1) :=
    Nat.lt_div_mul_add (Nat.succ_pos _)
  have hrunning' : t.timer.running = true := by rw [htimer]; exact hrunning
  have hfrequency : t.timer.frequency = p.frequency := by rw [htimer]; rfl
  have hpulse : t.timer.pulseLength = p.pulseLength := by rw [htimer]; rfl
  have helapsed : Claim.elapsed (p.lastCycleStart + BitVec.ofNat Config.tsWidth n) t.timer.lastCycleStart =
      n - (n - 1) / (p.frequency.toNat + 1) * (p.frequency.toNat + 1) := by
    rw [htimer]
    exact claimElapsed_add_add _ (by omega) (by omega)
  have hmod := Nat.mod_eq_sub_div_mul (x := n) (k := p.frequency.toNat + 1)
  by_cases hover : p.frequency.toNat < n - (n - 1) / (p.frequency.toNat + 1) * (p.frequency.toNat + 1)
  · have hcycle := unitPoll_over hover
    refine ⟨_, hstep.trans (exec_ptIsFiring_over hrunning' helapsed (hfrequency ▸ hover)), ?_, ?_, rfl, rfl⟩
    · rw [unitPolled, hcycle, htimer]
      rfl
    · rw [hmod, hcycle, Nat.sub_self, ← hpulse]
  · have hcycle := unitPoll_within (Nat.le_of_not_lt hover)
    have hwithin : n - (n - 1) / (p.frequency.toNat + 1) * (p.frequency.toNat + 1) ≤ t.timer.frequency.toNat := by
      rw [hfrequency]
      exact Nat.le_of_not_lt hover
    refine ⟨_, hstep.trans (exec_ptIsFiring_within hrunning' helapsed hwithin), ?_, ?_, rfl, rfl⟩
    · rw [unitPolled, hcycle]
      exact htimer
    · rw [hmod, hcycle, ← hpulse]

/-- Polls at every time unit from the anchor, at the head of the stream, for any number of them (R148). -/
theorem run_unit_polls {s : State} (hrunning : s.timer.running = true)
    (hwrap : s.timer.frequency.toNat + 1 < 2 ^ Config.tsWidth) (n : Nat) {rest : List Issue}
    (hpending : s.pending =
      (List.range n).map (fun k => encode (.ptIsFiring (s.timer.lastCycleStart + BitVec.ofNat Config.tsWidth k))) ++ rest) :
    ∃ t, Host.Core.run core n s = .next t ∧ t.timer = unitPolled s.timer (n - 1) ∧
      t.results = s.results ++ (List.range n).map
        (fun k => .bool (decide (k % (s.timer.frequency.toNat + 1) < s.timer.pulseLength.toNat))) ∧
      t.pending = rest ∧ t.channels = s.channels := by
  induction n generalizing rest with
  | zero => exact ⟨s, rfl, by simp [unitPolled], (List.append_nil _).symm, hpending, rfl⟩
  | succ n ih =>
    rw [List.range_succ, List.map_append, List.append_assoc] at hpending
    obtain ⟨t, hrun, htimer, hresults, ht, hchannels⟩ := ih hpending
    obtain ⟨u, hstep, htimer', hresults', hu, hchannels'⟩ := step_unit_poll hrunning hwrap htimer ht
    refine ⟨u, (run_add 1 hrun).trans (run_succ 0 hstep), htimer', ?_, hu, hchannels'.trans hchannels⟩
    rw [hresults', hresults, List.range_succ, List.map_append, List.append_assoc]
    rfl

/-! ### The statements about the timer -/

/-- Settles O25: `deactivate` writes `running` alone, and of the effects on the timer only `activate` writes it true. -/
theorem deactivateHoldsUntilActivate : Obligations.DeactivateHoldsUntilActivate := by
  refine ⟨fun s => ⟨exec_ptDeactivate s, fun hidle => ?again⟩, fun s t i hidle hi h => ⟨?idle, fun now hpoll => ?poll⟩⟩
  case again =>
    rw [exec_ptDeactivate, PulseTimerOf.deactivate, ← hidle]
    rfl
  case idle =>
    obtain heq | ⟨es, heff⟩ := exec_timer_cases h
    · rw [heq, hidle]
    · generalize t.timer = p at heff ⊢
      cases heff
      case activate => exact absurd rfl hi
      case deactivate => rfl
      case isFiring now => exact (PulseTimerOf.reanchor_running _ now).trans hidle
      all_goals exact hidle
  case poll =>
    subst hpoll
    rw [isFiringFollowsItsSteps, fires_idle hidle] at h
    cases h
    rfl

/-- Settles O35: a poll neither moves an Idle timer's anchor nor finds it firing. -/
theorem idlePollIsFreeOfSideEffects : Obligations.IdlePollIsFreeOfSideEffects := by
  intro s now hidle
  rw [isFiringFollowsItsSteps, fires_idle hidle, ← PulseTimerOf.reanchor_eq_polled, PulseTimerOf.reanchor_idle hidle]

/-- Settles O27: the get after the set reads the length the set wrote, and the poll after it compares with that length. -/
theorem timerPulseLengthReadAndWrite : Obligations.TimerPulseLengthReadAndWrite := by
  intro s v now
  refine ⟨exec_ptGetPulseLength s, exec_ptGetPulseLength State.reset, _, exec_ptSetPulseLength v s, rfl, ?get, _,
    isFiringFollowsItsSteps _ now, ?results, fun hzero => ?zero, fun hrunning hlt => ?always⟩
  case get => rw [exec_ptGetPulseLength]; simp [State.answer]
  case results => simp
  case zero => exact fires_of_pulseLength_zero hzero now
  case always => exact fires_of_frequency_lt (p := { s.timer with pulseLength := v }) hrunning hlt now

/-- Settles O28: the get after the set reads the frequency the set wrote, and the poll after it compares with that frequency. -/
theorem timerFrequencyReadAndWrite : Obligations.TimerFrequencyReadAndWrite := by
  intro s v now
  refine ⟨exec_ptGetFrequency s, exec_ptGetFrequency State.reset, _, exec_ptSetFrequency v s, rfl, ?get, _,
    isFiringFollowsItsSteps _ now, ?results, fun hrunning hover => ?restart, fun hrunning hzero hpos => ?always⟩
  case get => rw [exec_ptGetFrequency]; simp [State.answer]
  case results => simp
  case restart => exact anchorAfter_of_over (p := { s.timer with frequency := v }) hrunning hover
  case always =>
    subst hzero
    exact fires_of_frequency_lt (p := { s.timer with frequency := 0 }) hrunning hpos now

/-- Settles O29: the whole stream is one series of unit polls. -/
theorem unitPollingGivesASquareWave : Obligations.UnitPollingGivesASquareWave := by
  intro s n hrunning _ hwrap hpending
  obtain ⟨t, hrun, htimer, hresults, ht, hchannels⟩ :=
    run_unit_polls hrunning hwrap n (hpending.trans (List.append_nil _).symm)
  exact ⟨t, hrun, hresults, by rw [htimer]; rfl, ht, hchannels⟩

/-- Settles O30: the anchor of the poll in true time. -/
theorem sparsePollingStartsCyclesLate : Obligations.SparsePollingStartsCyclesLate := fun _ _ _ hrunning hanchor hle hwrap =>
  ⟨_, exec_ptIsFiring_trueTime hrunning hanchor hle hwrap, rfl⟩

/-- After a poll that leaves a timer Active, the elapsed time is at most its frequency (R149). -/
theorem elapsed_reanchor_le {ts : Nat} {p : PulseTimerOf ts} {now : BitVec ts} (hrunning : (p.reanchor now).running = true) :
    Claim.elapsed now (p.reanchor now).lastCycleStart ≤ (p.reanchor now).frequency.toNat := by
  rw [PulseTimerOf.reanchor_running] at hrunning
  rw [PulseTimerOf.reanchor_lastCycleStart_eq_anchorAfter, PulseTimerOf.reanchor_frequency]
  exact elapsed_anchorAfter_le hrunning now

/-- Settles O31: each of the three polls leaves a re-anchored timer. -/
theorem activePollBoundsTheElapsedTime : Obligations.ActivePollBoundsTheElapsedTime := by
  intro s t now
  refine ⟨fun h hidle => ?idle, fun h hrunning => ?active, fun ch c h hc hrunning => ?channel⟩
  case idle =>
    cases (idlePollIsFreeOfSideEffects s now hidle).symm.trans h
    rfl
  case active =>
    cases (isFiringFollowsItsSteps s now).symm.trans h
    exact elapsed_anchorAfter_le hrunning now
  case channel =>
    obtain h | ⟨m, h, b, hb, henabled⟩ := h
    · obtain ⟨a, d, es, -, hd, heff, -⟩ := exec_channel_effect h rfl
      cases hc.symm.trans hd
      cases heff
      exact elapsed_reanchor_le hrunning
    · obtain ⟨a, d, es, ha, hd, heff, -⟩ := exec_channel_effect h rfl
      cases hc.symm.trans hd
      cases hb.symm.trans ha
      cases heff
      case step => exact elapsed_reanchor_le hrunning
      case stepDisabled hdisabled => cases henabled.symm.trans hdisabled

/-- Settles O32: after a poll of an Active timer the elapsed time is at most the frequency, below any greater length. -/
theorem degenerateLengthsAreAlwaysOrNever : Obligations.DegenerateLengthsAreAlwaysOrNever := by
  intro s now
  refine ⟨_, Claim.fires s.timer now, isFiringFollowsItsSteps s now, rfl, fun hzero => fires_of_pulseLength_zero hzero now,
    fun _ hrunning hover => anchorAfter_of_over hrunning hover, fun hrunning hzero hpos => ⟨?_, ?_⟩,
    fun hrunning hlt => fires_of_frequency_lt hrunning hlt now⟩
  · refine fires_of_frequency_lt hrunning ?_ now
    rw [hzero]
    exact Nat.pos_of_ne_zero fun hnone => hpos (BitVec.eq_of_toNat_eq hnone)
  · exact anchorAfter_of_frequency_zero hrunning hzero now

/-- Settles O33: activation keeps the anchor, so the three cases are those of the poll's elapsed time, and of the later poll's. -/
theorem reactivationUsesTheStaleAnchor : Obligations.ReactivationUsesTheStaleAnchor := by
  intro s now e hidle he
  have hactivate := exec_ptActivate s
  have hlater (d : Nat) (hwrap : e + d < 2 ^ Config.tsWidth) :
      Claim.elapsed (now + BitVec.ofNat Config.tsWidth d) s.timer.lastCycleStart = e + d := by
    subst he
    exact claimElapsed_later now _ hwrap
  by_cases hover : s.timer.frequency.toNat < e
  · refine ⟨_, _, _, hactivate, exec_ptIsFiring_over rfl he.symm hover, rfl, fun _ => ⟨rfl, decide_eq_true_iff⟩,
      fun hwithin => absurd hover hwithin.not_gt, fun _ hwithin => absurd hover hwithin.not_gt⟩
  · refine ⟨_, _, _, hactivate, exec_ptIsFiring_within rfl he.symm (Nat.le_of_not_lt hover), rfl, fun h => absurd h hover,
      fun _ hfires => ⟨decide_eq_true hfires, rfl, fun d hwrap hwithin => ?fires⟩,
      fun hoff _ => ⟨decide_eq_false hoff.not_gt, rfl, fun d hwrap => ?off⟩⟩
    case fires =>
      have hanswer : decide (d < s.timer.pulseLength.toNat - e) = decide (e + d < s.timer.pulseLength.toNat) :=
        decide_eq_decide.2 (by omega)
      exact ⟨_, exec_ptIsFiring_within rfl (hlater d hwrap) hwithin, by rw [hanswer]; rfl⟩
    case off =>
      by_cases hover' : s.timer.frequency.toNat < e + d
      · have hanswer : decide (s.timer.frequency.toNat < e + d ∧ 0 < s.timer.pulseLength.toNat) =
            decide (0 < s.timer.pulseLength.toNat) := decide_eq_decide.2 (and_iff_right hover')
        exact ⟨_, exec_ptIsFiring_over rfl (hlater d hwrap) hover', by rw [hanswer]; rfl⟩
      · have hanswer : decide (s.timer.frequency.toNat < e + d ∧ 0 < s.timer.pulseLength.toNat) =
            decide (e + d < s.timer.pulseLength.toNat) := decide_eq_decide.2 (by omega)
        exact ⟨_, exec_ptIsFiring_within rfl (hlater d hwrap) (Nat.le_of_not_lt hover'), by rw [hanswer]; rfl⟩

/-- Settles O34: two polls in true time, the second from the anchor the first left. -/
theorem counterWrapChangesNoAnswer : Obligations.CounterWrapChangesNoAnswer := by
  intro s A P T g hrunning hanchor hAP hwrapP hPT hg hwrap
  have hfirst := exec_ptIsFiring_trueTime hrunning hanchor hAP hwrapP
  have hB : trueAnchor s.timer.frequency.toNat A P ≤ T ∧ T < trueAnchor s.timer.frequency.toNat A P + 2 ^ Config.tsWidth := by
    unfold trueAnchor
    split <;> omega
  exact ⟨_, _, _, _, rfl, rfl, hfirst, rfl, rfl, exec_ptIsFiring_trueTime hrunning rfl hB.1 hB.2, rfl, rfl⟩

/-- Settles O36: the later poll in true time either starts a cycle or answers by the time since the anchor. -/
theorem pollsQuantiseTheCycle : Obligations.PollsQuantiseTheCycle := by
  intro s t A P g hrunning hanchor hAP hP hg hwrap h
  cases (exec_ptIsFiring_trueTime hrunning hanchor (by omega) (by omega)).symm.trans h
  by_cases hover : s.timer.frequency.toNat < P + g - A
  · refine ⟨fun _ => by omega, fun hfired hresult => ?_⟩
    rw [trueAnchor, if_pos hover, Nat.sub_self] at hresult
    simp only [List.append_cancel_left_eq, List.cons.injEq, Result.bool.injEq, decide_eq_false_iff_not, and_true] at hresult
    omega
  · rw [trueAnchor, if_neg hover]
    refine ⟨fun hmoved => absurd hanchor.symm hmoved, fun hfired hresult => ?_⟩
    simp only [List.append_cancel_left_eq, List.cons.injEq, Result.bool.injEq, decide_eq_false_iff_not, and_true] at hresult
    omega

/-! ### The statements about the enabled step -/

/-- What an enabled step polls: the channel's timer, Active exactly where the reading is above the threshold (R170, R171). -/
theorem ControllerOf.armed_eq {ts ms : Nat} (c : ControllerOf ts) (m : BitVec ms) :
    c.armed m =
      ⟨decide (c.humidityThreshold.toNat < m.toNat), c.pulse.frequency, c.pulse.pulseLength, c.pulse.lastCycleStart⟩ := by
  rw [PulseTimerOf.mk.injEq]
  exact ⟨c.armed_running m, c.armed_frequency m, c.armed_pulseLength m, c.armed_lastCycleStart m⟩

/-- An enabled step polls the timer it arms and shows the answer on the pump (R170). -/
theorem ControllerOf.stepped_eq {ts ms : Nat} (c : ControllerOf ts) (now : BitVec ts) (m : BitVec ms) :
    c.stepped now m =
      ({ c with pulse := Claim.polled (c.armed m) now, pumpOut := if Claim.fires (c.armed m) now = true then .low else .high },
        Claim.fires (c.armed m) now) := by
  rw [← PulseTimerOf.reanchor_firesAt_eq_fires, ← PulseTimerOf.reanchor_eq_polled]
  rfl

/-- Settles O59: the poll and the step on numbers, at any widths. -/
theorem pollAndStepHoldAtEveryWidth : Obligations.PollAndStepHoldAtEveryWidth := by
  intro ts ms now m c p
  refine ⟨?poll, fun hp => ?step⟩
  case poll =>
    rw [← PulseTimerOf.reanchor_firesAt_eq_fires, ← PulseTimerOf.reanchor_eq_polled]
    rfl
  case step =>
    rw [hp, ← c.armed_eq m]
    exact c.stepped_eq now m

/-- Settles O37: a disabled step keeps the record, and an enabled one is the poll of the armed timer. -/
theorem controllerStepFollowsItsSteps : Obligations.ControllerStepFollowsItsSteps := by
  intro s ch now m c hc
  refine ⟨fun hdisabled => ?disabled, fun henabled p hp => ?enabled⟩
  case disabled =>
    refine (onChannel_of_some _ hc).trans ?_
    simp only [hdisabled, Bool.false_eq_true, if_false, State.setChannel_self hc, State.emit, List.append_nil]
    rfl
  case enabled =>
    rw [hp, ← c.armed_eq m, exec_ctlStep_of_enabled hc now m henabled, c.stepped_eq now m]
    rfl

/-- An Active timer of the spec's example: frequency 5000, pulse length 2000, anchor 0 (R186). -/
def midPulse : PulseTimer := ⟨true, 5000, 2000, 0⟩

/-- At 100 the example's pulse lasts, and the poll keeps the timer. -/
theorem midPulse_at_100 : Claim.polled midPulse 100 = midPulse ∧ Claim.fires midPulse 100 = true := by decide

/-- At 3000 the example's pulse is over. -/
theorem midPulse_at_3000 : (midPulse.reanchor 3000).firesAt 3000 = false := by decide

/-- Settles O46: the step at 100 arms the timer within its pulse, and the poll at 3000 is within the cycle but after the pulse. -/
theorem isRunningMayDisagreeWithThePump : Obligations.IsRunningMayDisagreeWithThePump := by
  intro s ch c hc henabled hthreshold hfrequency hpulse hanchor
  have harmed : midPulse =
      ⟨decide (c.humidityThreshold.toNat < (1500 : Moisture).toNat), c.pulse.frequency, c.pulse.pulseLength,
        c.pulse.lastCycleStart⟩ := by
    rw [hfrequency, hpulse, hanchor, decide_eq_true (by exact hthreshold)]
    rfl
  have hstep := (controllerStepFollowsItsSteps s ch 100 1500 c hc).2 henabled midPulse harmed
  rw [midPulse_at_100.1, midPulse_at_100.2] at hstep
  obtain ⟨t, ht, hresults, hrecord⟩ : ∃ t, exec (.ctlStep ch 100 1500) s = .next t ∧
      t.results = s.results ++ [.bool true] ∧ t.channels[ch.toNat]? = some { c with pulse := midPulse, pumpOut := .low } :=
    ⟨_, hstep, rfl, State.setChannel_same hc⟩
  refine ⟨t, _, ht, hresults, exec_ctlIsRunning hrecord 3000, ?_, congrArg _ (State.setChannel_same hrecord)⟩
  rw [State.answer_results, midPulse_at_3000]
  rfl

end Sys2Proof.Machine
end
